-- ==== Sys2Proof/Word.lean ====
section
/-! DEFINITION. The word types of SCD: the byte of the serial streams, the 8-bit opcode and the opcode's fields.

All values are unsigned (00_scope.md R6). -/

namespace Sys2Proof

/-- A byte of the receive or transmit stream (20_memory.md R30, R35). -/
abbrev Byte := BitVec 8

/-- An opcode, `OPW` = 8 bits, bit 7 the most significant (00_scope.md R2, R6). -/
abbrev Opcode := BitVec 8

/-- The `code` field of format C, bits 5-0 (30_encoding.md R54). -/
abbrev Code := BitVec 6

/-- The `bus` field of format S, bits 5-4 (30_encoding.md R53). -/
abbrev BusField := BitVec 2

/-- The `idx` field of format S, bits 3-0 (30_encoding.md R53). -/
abbrev IdxField := BitVec 4

/-- Text the HAL hands over (firmware version, module list), as the bytes of the string. -/
abbrev Text := List Byte

/-- The status `Hal.check24V` answers: a token, since no source says what it holds (91_not_in_source.md N17; log 10). -/
abbrev CheckStatus := Nat

end Sys2Proof
end

