-- ==== Sys2Proof/Config.lean ====
section
/-! DEFINITION. What is fixed for one machine (the configuration record of 00_scope.md R5) and the free values.

The default values of the record stand in Machine/Defaults.lean; its constraints in WellFormed.lean. -/

namespace Sys2Proof

/-- The two named antenna buses: `BUS_EMS` = 0b00, `BUS_DFS` = 0b01 (00_scope.md R5; 30_encoding.md R58). -/
inductive Bus where
  | ems
  | dfs
  deriving DecidableEq, Repr

/-- One wired selection: the pair (bus, idx) has a physical channel, and `channel` is its `CH_CHAIN(bus, idx)`
(00_scope.md R5; 20_memory.md R37). -/
structure Wire where
  bus : Bus
  idx : IdxField
  channel : Nat
  deriving DecidableEq, Repr

/-- The configuration record (00_scope.md R5). It is plain data and stands in State, where no step writes it, so that a
claim can name a field or hold for every value of it (log 1). The parameters the document fixes (opcode width, line
length, masks, the two exact patterns, the bus codes, `ECHO_RESET`) are constants of the rules and no fields. -/
structure Config where
  /-- `OPC_SLEEP` -/
  opcSleep : Code
  /-- `OPC_TECHO` -/
  opcTecho : Code
  /-- `OPC_FWVER` -/
  opcFwver : Code
  /-- `OPC_BASEACT` -/
  opcBaseact : Code
  /-- `OPC_PRMOD` -/
  opcPrmod : Code
  /-- `OPC_CHK24V[1]` -/
  opcChk24v1 : Code
  /-- `OPC_CHK24V[2]` -/
  opcChk24v2 : Code
  /-- `OPC_CHK24V[3]` -/
  opcChk24v3 : Code
  /-- `OPC_INIT` -/
  opcInit : Code
  /-- `OPC_DISABLE` -/
  opcDisable : Code
  /-- `OPC_QSTAT` -/
  opcQstat : Code
  /-- `OPC_RDSTAT[s]` for s = 1 to `NSLOT_RD`, slot 1 first; `NSLOT_RD` is how many there are (log 3) -/
  opcRdstat : List Code
  /-- `OUT_SLOT`, the slot of the selector output module -/
  outSlot : Nat
  /-- `WIRED` and `CH_CHAIN` as one table: a pair is wired when it is listed -/
  wiring : List Wire
  /-- `CH_BUSSEL(EMS)` -/
  chBusselEms : Nat
  /-- `CH_BUSSEL(DFS)` -/
  chBusselDfs : Nat
  /-- `UNWIRED_UPDATES_STATUS` (44_selection.md R130) -/
  unwiredUpdatesStatus : Bool
  /-- `CHK24V_FALLTHROUGH` (43_config.md R119) -/
  chk24vFallthrough : Bool
  /-- `STATUS_RESET` (10_state.md R21) -/
  statusReset : Byte
  /-- `RX_CAP`; none means unbounded (70_reset_and_hazards.md R194) -/
  rxCap : Option Nat
  deriving DecidableEq, Repr

/-- `NSLOT_RD`, the number of read-status slots (00_scope.md R5; log 3). -/
def Config.nslotRd (cfg : Config) : Nat :=
  cfg.opcRdstat.length

/-- `OPC_RDSTAT[slot]` for a slot from 1 to `NSLOT_RD` (00_scope.md R5); for another number, which no decoded instruction
has, code 0 (log 25). -/
def Config.rdstatCode (cfg : Config) (slot : Nat) : Code :=
  cfg.opcRdstat.getD (slot - 1) 0

/-! ## Free values

Each is a constant with no body, applied to the count of draws made so far (`State.draws`): nothing in Lean can evaluate
it, so a claim that is proved holds whatever the HAL answers (20_memory.md R43; 93_implementation_defined.md U7; log 9). -/

/-- What a call of `Hal.init` answers. -/
opaque Config.freeHalInit : Nat → Bool

/-- What a call of `Hal.isBaseActive` answers. -/
opaque Config.freeHalIsBaseActive : Nat → Bool

/-- What a call of `Hal.getFwVersion` answers. -/
opaque Config.freeHalFwVersion : Nat → Text

/-- The text a call of `Hal.printModules` writes. -/
opaque Config.freeHalModules : Nat → Text

/-- What a call of `Hal.check24V` answers. -/
opaque Config.freeHalCheck24V : Nat → CheckStatus

/-- Whether the as-built check of slot 1 also performs slot 2's check, when `CHK24V_FALLTHROUGH` is true
(93_implementation_defined.md U19; log 14). -/
opaque Config.freeSlot2Check : Nat → Bool

end Sys2Proof
end

