-- ==== Sys2Proof/Syntax.lean ====
section
/-! DEFINITION. The instructions: one constructor per row of spec/opcode_table.json.

`wl` is bit 7 of the received opcode, the warning-light bit: don't-care for the action, shown by the echo
(30_encoding.md R53, R54, R60; 41_dispatch.md R91). -/

namespace Sys2Proof

/-- The instruction set: the classes of 30_encoding.md R56 to R59. -/
inductive Instr where
  /-- `WLON`, exactly 0xFF (42_warning_light.md R100) -/
  | wlon
  /-- `WLOFF`, exactly 0x7F (42_warning_light.md R101) -/
  | wloff
  /-- `SLEEP` (43_config.md R105) -/
  | sleep (wl : Bool)
  /-- `TECHO` (43_config.md R106) -/
  | techo (wl : Bool)
  /-- `FWVER` (43_config.md R107) -/
  | fwver (wl : Bool)
  /-- `BASEACT` (43_config.md R108) -/
  | baseact (wl : Bool)
  /-- `PRMOD` (43_config.md R109) -/
  | prmod (wl : Bool)
  /-- `CHK24V1` (43_config.md R110, R119) -/
  | chk24v1 (wl : Bool)
  /-- `CHK24V2` (43_config.md R111, R119) -/
  | chk24v2 (wl : Bool)
  /-- `CHK24V3` (43_config.md R112, R119) -/
  | chk24v3 (wl : Bool)
  /-- `INIT` (43_config.md R113) -/
  | init (wl : Bool)
  /-- `DISABLE` (43_config.md R114) -/
  | disable (wl : Bool)
  /-- `QSTAT` (43_config.md R115) -/
  | qstat (wl : Bool)
  /-- `RDSTAT1` (43_config.md R116) -/
  | rdstat1 (wl : Bool)
  /-- `RDSTAT2` (43_config.md R117) -/
  | rdstat2 (wl : Bool)
  /-- `RDSTAT3` (43_config.md R118) -/
  | rdstat3 (wl : Bool)
  /-- read-status on a slot from 4 to `NSLOT_RD`, where the configuration has so many: such a slot has a code and no row of
  its own in the table (00_scope.md R5; log 3) -/
  | rdstatFurther (wl : Bool) (slot : Nat)
  /-- `SEL.EMS.1`, masked opcode 0x41 (44_selection.md R133) -/
  | selEms1 (wl : Bool)
  /-- `SEL.EMS.2`, masked opcode 0x42 (44_selection.md R134) -/
  | selEms2 (wl : Bool)
  /-- `SEL.EMS.3`, masked opcode 0x43 (44_selection.md R135) -/
  | selEms3 (wl : Bool)
  /-- `SEL.EMS.4`, masked opcode 0x44 (44_selection.md R136) -/
  | selEms4 (wl : Bool)
  /-- `SEL.DFS.1`, masked opcode 0x51 (44_selection.md R137) -/
  | selDfs1 (wl : Bool)
  /-- `SEL.DFS.2`, masked opcode 0x52 (44_selection.md R138) -/
  | selDfs2 (wl : Bool)
  /-- `SEL.DFS.3`, masked opcode 0x53 (44_selection.md R139) -/
  | selDfs3 (wl : Bool)
  /-- `SEL.DFS.4`, masked opcode 0x54 (44_selection.md R140) -/
  | selDfs4 (wl : Bool)
  /-- `SEL bus, idx`: every other opcode with bit 6 set but 0x7F and 0xFF (44_selection.md R130) -/
  | sel (wl : Bool) (bus : BusField) (idx : IdxField)
  /-- `UNREC`: bit 6 clear and a code that is no member of the enumeration (41_dispatch.md R95) -/
  | unrec (wl : Bool) (code : Code)
  deriving DecidableEq, Repr

/-- Bit 7 of the opcode an instruction stands for (30_encoding.md R53 to R55). -/
def Instr.wlBit : Instr → Bool
  | .wlon => true
  | .wloff => false
  | .sleep wl | .techo wl | .fwver wl | .baseact wl | .prmod wl | .chk24v1 wl | .chk24v2 wl | .chk24v3 wl => wl
  | .init wl | .disable wl | .qstat wl | .rdstat1 wl | .rdstat2 wl | .rdstat3 wl | .rdstatFurther wl _ => wl
  | .selEms1 wl | .selEms2 wl | .selEms3 wl | .selEms4 wl => wl
  | .selDfs1 wl | .selDfs2 wl | .selDfs3 wl | .selDfs4 wl => wl
  | .sel wl _ _ => wl
  | .unrec wl _ => wl

/-- The pair (bus, idx) of a selection, of either spelling (30_encoding.md R53, R58); none for the other formats. -/
def Instr.selection? : Instr → Option (BusField × IdxField)
  | .selEms1 _ => some (0, 1)
  | .selEms2 _ => some (0, 2)
  | .selEms3 _ => some (0, 3)
  | .selEms4 _ => some (0, 4)
  | .selDfs1 _ => some (1, 1)
  | .selDfs2 _ => some (1, 2)
  | .selDfs3 _ => some (1, 3)
  | .selDfs4 _ => some (1, 4)
  | .sel _ bus idx => some (bus, idx)
  | .wlon | .wloff => none
  | .sleep _ | .techo _ | .fwver _ | .baseact _ | .prmod _ | .chk24v1 _ | .chk24v2 _ | .chk24v3 _ => none
  | .init _ | .disable _ | .qstat _ | .rdstat1 _ | .rdstat2 _ | .rdstat3 _ | .rdstatFurther _ _ => none
  | .unrec _ _ => none

end Sys2Proof
end

