-- ==== Sys2Proof/WellFormed.lean ====
section
/-! DEFINITION. Which configurations the spec allows (00_scope.md R5, the constraint column) and which instruction terms
are the decoding of some opcode under a configuration (30_encoding.md R56 to R59). -/

namespace Sys2Proof

/-- The config/sleep enumeration, in the order of 30_encoding.md R57. -/
def Config.enumeration (cfg : Config) : List Code :=
  [cfg.opcSleep, cfg.opcTecho, cfg.opcFwver, cfg.opcBaseact, cfg.opcPrmod, cfg.opcChk24v1, cfg.opcChk24v2,
    cfg.opcChk24v3, cfg.opcInit, cfg.opcDisable, cfg.opcQstat] ++ cfg.opcRdstat

/-- All codes of the enumeration are distinct and none is 0x28 (00_scope.md R5). -/
abbrev Config.CodesOk (cfg : Config) : Prop :=
  cfg.enumeration.Nodup ∧ (0x28 : Code) ∉ cfg.enumeration

/-- `NSLOT_RD` and `OUT_SLOT` are at least 1 (00_scope.md R5). -/
abbrev Config.SlotsOk (cfg : Config) : Prop :=
  1 ≤ cfg.nslotRd ∧ 1 ≤ cfg.outSlot

/-- Every chain channel is at least 1 and differs from both bus-select channels, which are at least 1 and differ
(00_scope.md R5). -/
abbrev Config.ChannelsOk (cfg : Config) : Prop :=
  (∀ w ∈ cfg.wiring, 1 ≤ w.channel ∧ w.channel ≠ cfg.chBusselEms ∧ w.channel ≠ cfg.chBusselDfs) ∧
    1 ≤ cfg.chBusselEms ∧ 1 ≤ cfg.chBusselDfs ∧ cfg.chBusselEms ≠ cfg.chBusselDfs

/-- `RX_CAP` is unbounded or at least `N_LINE` = 10 (00_scope.md R5). -/
abbrev Config.CapOk (cfg : Config) : Prop :=
  ∀ cap ∈ cfg.rxCap, 10 ≤ cap

/-- The constraints of the configuration record (00_scope.md R5). -/
abbrev Config.WF (cfg : Config) : Prop :=
  cfg.CodesOk ∧ cfg.SlotsOk ∧ cfg.ChannelsOk ∧ cfg.CapOk

/-- The eight (bus, idx) pairs that have an opcode-table row of their own (30_encoding.md R58). -/
def namedSelections : List (BusField × IdxField) :=
  [(0, 1), (0, 2), (0, 3), (0, 4), (1, 1), (1, 2), (1, 3), (1, 4)]

/-- An instruction term is well formed when some opcode decodes to it: the generic selection is none of the named ones
and not the pattern `WLON`/`WLOFF` take, a read-status slot exists, an unrecognized code is no member of the enumeration
(30_encoding.md R56, R59). -/
def Instr.wf (cfg : Config) : Instr → Bool
  | .rdstat1 _ => decide (1 ≤ cfg.nslotRd)
  | .rdstat2 _ => decide (2 ≤ cfg.nslotRd)
  | .rdstat3 _ => decide (3 ≤ cfg.nslotRd)
  | .rdstatFurther _ slot => decide (4 ≤ slot) && decide (slot ≤ cfg.nslotRd)
  | .sel _ bus idx => decide ((bus, idx) ∉ namedSelections) && decide ((bus, idx) ≠ (3, 15))
  | .unrec _ code => decide (code ∉ cfg.enumeration)
  | .wlon | .wloff => true
  | .sleep _ | .techo _ | .fwver _ | .baseact _ | .prmod _ | .chk24v1 _ | .chk24v2 _ | .chk24v3 _ => true
  | .init _ | .disable _ | .qstat _ => true
  | .selEms1 _ | .selEms2 _ | .selEms3 _ | .selEms4 _ => true
  | .selDfs1 _ | .selDfs2 _ | .selDfs3 _ | .selDfs4 _ => true

end Sys2Proof
end

