-- ==== Sys2Proof/Machine/Defaults.lean ====
section
/-! DEFINITION. The default values of the configuration record (00_scope.md R5). -/

namespace Sys2Proof

/-- The default wiring: EMS and DFS, idx 1 to 4, channel = idx on both buses (20_memory.md R37; 30_encoding.md R58).
DESIGN CHOICE of the spec, decision D4 (log 4). -/
def Config.defaultWiring : List Wire :=
  [⟨.ems, 1, 1⟩, ⟨.ems, 2, 2⟩, ⟨.ems, 3, 3⟩, ⟨.ems, 4, 4⟩, ⟨.dfs, 1, 1⟩, ⟨.dfs, 2, 2⟩, ⟨.dfs, 3, 3⟩, ⟨.dfs, 4, 4⟩]

/-- The default configuration (00_scope.md R5; 30_encoding.md R57). The numeric codes, slots and channels are the spec's
own decisions D2 to D5, D8, D13, D18 (logs 2 to 5, 13 to 15); a claim about the hardware is stated over the fields. -/
def Config.default : Config where
  opcSleep := 0x00
  opcTecho := 0x01
  opcFwver := 0x02
  opcBaseact := 0x03
  opcPrmod := 0x04
  opcChk24v1 := 0x05
  opcChk24v2 := 0x06
  opcChk24v3 := 0x07
  opcInit := 0x08
  opcDisable := 0x09
  opcQstat := 0x0A
  opcRdstat := [0x0B, 0x0C, 0x0D]
  outSlot := 1
  wiring := Config.defaultWiring
  chBusselEms := 5
  chBusselDfs := 6
  unwiredUpdatesStatus := false
  chk24vFallthrough := false
  statusReset := 0x00
  rxCap := none

end Sys2Proof
end

