-- ==== Sys2Proof/Decode.lean ====
section
/-! DEFINITION. From bytes of the receive stream to an instruction, and back.

Two encodings stack (30_encoding.md): a line of ASCII digits encodes an 8-bit opcode, the opcode's bits encode a command.
The decoder is total on any bytes and rejects by name; the encoder is written from the same tables. -/

namespace Sys2Proof

/-! ## The line format (30_encoding.md R50, R51, R61; 40_decoder.md R71 to R77) -/

/-- ASCII `'0'`. PRESUMED: the numeric ASCII codes (20_memory.md R33, 93_implementation_defined.md G1; log 26). -/
def asciiZero : Byte := 0x30

/-- ASCII `'1'` (20_memory.md R33; log 26). -/
def asciiOne : Byte := 0x31

/-- ASCII CR (20_memory.md R33; log 26). -/
def asciiCr : Byte := 0x0D

/-- ASCII LF, the byte that ends a read (20_memory.md R33; 40_decoder.md R71; log 16, log 26). -/
def asciiLf : Byte := 0x0A

/-- `N_LINE`, the most bytes one read takes: 8 digits and 2 terminator bytes (00_scope.md R5; 40_decoder.md R71). -/
def nLine : Nat := 10

/-- How a read phase stands after it took what was pending (40_decoder.md R71 to R73). -/
inductive ReadEnd where
  /-- an LF was read: the bytes of LINEBUF, and what stays in RX -/
  | complete (line rest : List Byte)
  /-- N_LINE bytes were read and none is an LF: what stays in RX -/
  | full (rest : List Byte)
  /-- RX ran empty before either: the bytes of LINEBUF so far; the read waits in RxGet -/
  | starved (line : List Byte)
  deriving DecidableEq, Repr

/-- The read phase: move bytes from RX to LINEBUF until an LF, until LINEBUF holds `N_LINE` bytes, or until RX is empty
(40_decoder.md R71). The first list is LINEBUF so far, the second RX. -/
def readLine (line : List Byte) : List Byte → ReadEnd
  | [] => .starved line
  | b :: rest =>
    if b = asciiLf then .complete (line ++ [b]) rest
    else if nLine ≤ line.length + 1 then .full rest
    else readLine (line ++ [b]) rest

/-- The value of the longest run of binary digits and its length, after a run of value `v` and length `n`
(40_decoder.md R74, `ParseBin`). The value is an unbounded natural number. -/
def parseBinFrom (v n : Nat) : List Byte → Nat × Nat
  | [] => (v, n)
  | b :: rest =>
    if b = asciiZero then parseBinFrom (2 * v) (n + 1) rest
    else if b = asciiOne then parseBinFrom (2 * v + 1) (n + 1) rest
    else (v, n)

/-- `ParseBin(buf)`: value and length of the digit run at the start of the line (40_decoder.md R74). -/
def parseBin (line : List Byte) : Nat × Nat :=
  parseBinFrom 0 0 line

/-- The parse phase of a complete read: the opcode `V mod 256`, or none for `NotANumber` (40_decoder.md R74 to R77). -/
def parseLine (line : List Byte) : Option Opcode :=
  if (parseBin line).2 = 0 then none else some (BitVec.ofNat 8 (parseBin line).1)

/-! ## The opcode formats (30_encoding.md R52 to R60) -/

/-- The masked opcode `m = op & 0x7F` (41_dispatch.md R92). -/
def maskOpcode (op : Opcode) : Opcode :=
  op &&& 0x7F

/-- Bit 7 of an opcode, `wl` (30_encoding.md R53, R54). -/
def wlField (op : Opcode) : Bool :=
  op.getLsbD 7

/-- Bit 6 of an opcode, which selects the layout (30_encoding.md R52). -/
def selField (op : Opcode) : Bool :=
  op.getLsbD 6

/-- Bits 5-0 of an opcode, `code` (30_encoding.md R54). -/
def codeField (op : Opcode) : Code :=
  op.extractLsb' 0 6

/-- Bits 5-4 of an opcode, `bus` (30_encoding.md R53). -/
def busField (op : Opcode) : BusField :=
  op.extractLsb' 4 2

/-- Bits 3-0 of an opcode, `idx` (30_encoding.md R53). -/
def idxField (op : Opcode) : IdxField :=
  op.extractLsb' 0 4

/-- An opcode of format C: `wl`, bit 6 clear, `code` (30_encoding.md R54). -/
def formatC (wl : Bool) (code : Code) : Opcode :=
  BitVec.ofBool wl ++ 0#1 ++ code

/-- An opcode of format S: `wl`, bit 6 set, `bus`, `idx` (30_encoding.md R53). -/
def formatS (wl : Bool) (bus : BusField) (idx : IdxField) : Opcode :=
  BitVec.ofBool wl ++ 1#1 ++ bus ++ idx

/-- Match a code against `OPC_RDSTAT[1..NSLOT_RD]`; a code that is none of them is unrecognized (30_encoding.md R57, R59). -/
def decodeReadStatus (cfg : Config) (wl : Bool) (code : Code) : Instr :=
  match cfg.opcRdstat.idxOf? code with
  | some 0 => .rdstat1 wl
  | some 1 => .rdstat2 wl
  | some 2 => .rdstat3 wl
  | some (k + 3) => .rdstatFurther wl (k + 4)
  | none => .unrec wl code

/-- Match a format-C code against the enumeration; a code that is no member is unrecognized (41_dispatch.md R93, R95;
30_encoding.md R57, R59). -/
def decodeConfig (cfg : Config) (wl : Bool) (code : Code) : Instr :=
  if code = cfg.opcSleep then .sleep wl
  else if code = cfg.opcTecho then .techo wl
  else if code = cfg.opcFwver then .fwver wl
  else if code = cfg.opcBaseact then .baseact wl
  else if code = cfg.opcPrmod then .prmod wl
  else if code = cfg.opcChk24v1 then .chk24v1 wl
  else if code = cfg.opcChk24v2 then .chk24v2 wl
  else if code = cfg.opcChk24v3 then .chk24v3 wl
  else if code = cfg.opcInit then .init wl
  else if code = cfg.opcDisable then .disable wl
  else if code = cfg.opcQstat then .qstat wl
  else decodeReadStatus cfg wl code

/-- The selection of a format-S opcode: its own row where the opcode table has one, else the generic row
(41_dispatch.md R94; 30_encoding.md R58). -/
def decodeSelect (wl : Bool) (bus : BusField) (idx : IdxField) : Instr :=
  if (bus, idx) = (0, 1) then .selEms1 wl
  else if (bus, idx) = (0, 2) then .selEms2 wl
  else if (bus, idx) = (0, 3) then .selEms3 wl
  else if (bus, idx) = (0, 4) then .selEms4 wl
  else if (bus, idx) = (1, 1) then .selDfs1 wl
  else if (bus, idx) = (1, 2) then .selDfs2 wl
  else if (bus, idx) = (1, 3) then .selDfs3 wl
  else if (bus, idx) = (1, 4) then .selDfs4 wl
  else .sel wl bus idx

/-- Classify an opcode in the fixed order of 30_encoding.md R56 (41_dispatch.md R90): the two exact patterns on all 8
bits, then the masked opcode against the enumeration or as a selection. Total: every opcode is an instruction. -/
def decodeOpcode (cfg : Config) (op : Opcode) : Instr :=
  if op = 0xFF then .wlon
  else if op = 0x7F then .wloff
  else if selField (maskOpcode op) then
    decodeSelect (wlField op) (busField (maskOpcode op)) (idxField (maskOpcode op))
  else decodeConfig cfg (wlField op) (codeField (maskOpcode op))

/-! ## The whole decoder -/

/-- The decoder's two errors (40_decoder.md R73, R75; 60_exceptions.md R160). -/
inductive DecodeError where
  | framingError
  | notANumber
  deriving DecidableEq, Repr

/-- `Decode()` on bytes that are all pending, with nothing behind them: an opcode and the bytes that stay, or an error
(40_decoder.md R80). A read that runs out of bytes ends by the timeout, a framing error. -/
def decodeBytes (bytes : List Byte) : Except DecodeError (Opcode × List Byte) :=
  match readLine [] bytes with
  | .complete line rest =>
    match parseLine line with
    | some op => .ok (op, rest)
    | none => .error .notANumber
  | .full _ => .error .framingError
  | .starved _ => .error .framingError

/-- The decoder from bytes to an instruction and the bytes behind it. -/
def decode (cfg : Config) (bytes : List Byte) : Except DecodeError (Instr × List Byte) :=
  match decodeBytes bytes with
  | .ok (op, rest) => .ok (decodeOpcode cfg op, rest)
  | .error e => .error e

/-! ## The encoder -/

/-- The opcode an instruction stands for (30_encoding.md R53 to R58). -/
def encodeOpcode (cfg : Config) : Instr → Opcode
  | .wlon => 0xFF
  | .wloff => 0x7F
  | .sleep wl => formatC wl cfg.opcSleep
  | .techo wl => formatC wl cfg.opcTecho
  | .fwver wl => formatC wl cfg.opcFwver
  | .baseact wl => formatC wl cfg.opcBaseact
  | .prmod wl => formatC wl cfg.opcPrmod
  | .chk24v1 wl => formatC wl cfg.opcChk24v1
  | .chk24v2 wl => formatC wl cfg.opcChk24v2
  | .chk24v3 wl => formatC wl cfg.opcChk24v3
  | .init wl => formatC wl cfg.opcInit
  | .disable wl => formatC wl cfg.opcDisable
  | .qstat wl => formatC wl cfg.opcQstat
  | .rdstat1 wl => formatC wl (cfg.rdstatCode 1)
  | .rdstat2 wl => formatC wl (cfg.rdstatCode 2)
  | .rdstat3 wl => formatC wl (cfg.rdstatCode 3)
  | .rdstatFurther wl slot => formatC wl (cfg.rdstatCode slot)
  | .selEms1 wl => formatS wl 0 1
  | .selEms2 wl => formatS wl 0 2
  | .selEms3 wl => formatS wl 0 3
  | .selEms4 wl => formatS wl 0 4
  | .selDfs1 wl => formatS wl 1 1
  | .selDfs2 wl => formatS wl 1 2
  | .selDfs3 wl => formatS wl 1 3
  | .selDfs4 wl => formatS wl 1 4
  | .sel wl bus idx => formatS wl bus idx
  | .unrec wl code => formatC wl code

/-- The digit character of a bit (30_encoding.md R50). -/
def digitByte (b : Bool) : Byte :=
  if b then asciiOne else asciiZero

/-- The canonical line of an opcode: eight digits, most significant first, then CR and LF (30_encoding.md R50). -/
def lineOf (op : Opcode) : List Byte :=
  [digitByte (op.getLsbD 7), digitByte (op.getLsbD 6), digitByte (op.getLsbD 5), digitByte (op.getLsbD 4),
    digitByte (op.getLsbD 3), digitByte (op.getLsbD 2), digitByte (op.getLsbD 1), digitByte (op.getLsbD 0),
    asciiCr, asciiLf]

/-- The bytes of an instruction: its opcode's canonical line. -/
def encode (cfg : Config) (i : Instr) : List Byte :=
  lineOf (encodeOpcode cfg i)

/-- The opcode of a table word: its low `nbits` bits. Every row of the table has 8 bits, so a word above 0xFF names no
opcode. -/
def opcodeOfTableWord (nbits w : Nat) : Option Opcode :=
  if w % 2 ^ nbits < 256 then some (BitVec.ofNat 8 (w % 2 ^ nbits)) else none

/-- The instruction the decoder reads, under the default configuration, from the line that carries the opcode `w`. -/
def decodeTableWord (nbits w : Nat) : Option Instr :=
  match opcodeOfTableWord nbits w with
  | none => none
  | some op =>
    match decode Config.default (lineOf op) with
    | .ok (i, _) => some i
    | .error _ => none

end Sys2Proof
end

