-- ==== Sys2Proof/Machine/State.lean ====
section
/-! DEFINITION. The state of the machine as plain data, the reasons a step can stop, and the state after reset. -/

namespace Sys2Proof.Machine

/-- A response on TX, an abstract message (20_memory.md R42). -/
inductive Message where
  /-- the step-1 echo of the raw opcode -/
  | echo (op : Opcode)
  /-- toggle-echo's report of the new state -/
  | echoState (on : Bool)
  /-- the firmware version string -/
  | fwVersion (version : Text)
  /-- base controller active or not -/
  | baseActive (active : Bool)
  /-- text the HAL writes for printModules -/
  | modules (text : Text)
  /-- query-status: all 8 bits of STATUS -/
  | status (value : Byte)
  /-- step 6's warning with the raw opcode -/
  | unrecognized (op : Opcode)
  /-- the report of a framing error -/
  | framingError
  /-- the report of a line without digits -/
  | notANumber
  deriving DecidableEq, Repr

/-- An output event: one transaction of the interface (20_memory.md R31), in the trace (R38). A HAL call that returns
carries what it returned. -/
inductive Event where
  /-- `DWrite(level, slot, channel)` on DOUT (45_output_sequencer.md R150) -/
  | dwrite (level : Bool) (slot channel : Nat)
  /-- `WarnLight(level)` on WLO (45_output_sequencer.md R154) -/
  | warnLight (level : Bool)
  /-- `Tx(msg)` on TX (20_memory.md R42) -/
  | tx (msg : Message)
  /-- `Hal.init()` returned `ok` -/
  | halInit (ok : Bool)
  /-- `Hal.isBaseActive()` returned `active` -/
  | halIsBaseActive (active : Bool)
  /-- `Hal.getFwVersion()` returned `version` -/
  | halGetFwVersion (version : Text)
  /-- `Hal.printModules()` -/
  | halPrintModules
  /-- `Hal.enableBaseController(enable)` -/
  | halEnableBaseController (enable : Bool)
  /-- `Hal.check24V(slot)` returned `answer` -/
  | halCheck24V (slot : Nat) (answer : CheckStatus)
  deriving DecidableEq, Repr

/-- Where the control path stands between two moves, with the transient state that is alive there (10_state.md R18). -/
inductive Control where
  /-- at the top of the polling loop; no line, no opcode in flight (40_decoder.md R70) -/
  | polling
  /-- inside a read, waiting in RxGet on an empty RX; `line` is LINEBUF so far (40_decoder.md R71, R78) -/
  | reading (line : List Byte)
  /-- a read failed; RxDrain and the report come next (40_decoder.md R73) -/
  | draining
  /-- inside INIT's repeat loop, with the opcode in flight (43_config.md R113) -/
  | initPolling (op : Opcode)
  deriving DecidableEq, Repr

/-- Who acts next (00_scope.md R8; log 6). -/
inductive Move where
  /-- the host appends bytes to RX (20_memory.md R32, R45) -/
  | hostSends (bytes : List Byte)
  /-- the transport's read timeout fires (20_memory.md R32; 40_decoder.md R78) -/
  | timeout
  /-- the SCD core goes on -/
  | core
  deriving DecidableEq, Repr

/-- The answers the HAL will give to the next calls, per call; where a list is empty the answer is a free value of Config
(20_memory.md R43; log 9). -/
structure HalAnswers where
  init : List Bool
  isBaseActive : List Bool
  fwVersion : List Text
  modules : List Text
  check24V : List CheckStatus
  deriving DecidableEq, Repr

/-- The state (INVENTORY.md, State). -/
structure State where
  /-- the configuration; no step writes it (00_scope.md R5; log 1) -/
  cfg : Config
  /-- `STATUS`: WL in bit 7, LAST in bits 6-0 (10_state.md R11) -/
  status : Byte
  /-- `ECHO` (10_state.md R19) -/
  echo : Bool
  /-- `RX`, oldest byte first (20_memory.md R32) -/
  rx : List Byte
  /-- where the control path stands, with LINEBUF or the opcode in flight (10_state.md R18) -/
  control : Control
  /-- every output event so far, oldest first (20_memory.md R38) -/
  trace : List Event
  /-- the model's own: the HAL's next answers (log 9) -/
  hal : HalAnswers
  /-- the model's own: how many HAL answers were drawn (log 9) -/
  draws : Nat
  /-- the model's own: who acts next (log 6) -/
  schedule : List Move
  deriving DecidableEq, Repr

/-- The reasons for a machine fault: none. SCD never halts and no fault outcome exists (60_exceptions.md R176; log 21), so
no step raises one; a model that cannot fault is safe only because every condition the spec names is taken as a next
state or refused. -/
inductive Fault where
  deriving DecidableEq, Repr

/-- The reasons the model refuses a step; both are the model's and not the hardware's (60_exceptions.md R176). -/
inductive Refusal where
  /-- An instruction of the opcode table without a meaning yet; raised by exec's arm alone; safe. -/
  | notModelled (mnemonic : String)
  /-- RDSTAT1 to RDSTAT3, and read-status on further slots: the action is in no source, and the spec has the model refuse it (43_config.md R116 to R118;
  93_implementation_defined.md U5; log 12). Raised by the three read-status meanings; safe. -/
  | readStatusActionNotInSource (slot : Nat)
  /-- The host's bytes would exceed a finite RX_CAP (70_reset_and_hazards.md R194; 93_implementation_defined.md U9; log 13).
  Raised by the host's move; safe. -/
  | rxCapExceeded
  deriving DecidableEq, Repr

/-- What a step answers. -/
abbrev Result := Host.Outcome State Fault Refusal

/-- No scripted HAL answers: every answer is a free value. -/
def HalAnswers.none : HalAnswers where
  init := []
  isBaseActive := []
  fwVersion := []
  modules := []
  check24V := []

/-- The state right after power-up under a configuration: STATUS is STATUS_RESET, ECHO false, nothing in flight, no output
issued, RX empty (70_reset_and_hazards.md R180 to R182; 10_state.md R21, R22, R24, R25). It reads nothing of an earlier
state: nothing persists across power cycles. The model's own fields are empty (log 24). -/
def State.powerUp (cfg : Config) : State where
  cfg := cfg
  status := cfg.statusReset
  echo := false
  rx := []
  control := .polling
  trace := []
  hal := HalAnswers.none
  draws := 0
  schedule := []

/-- The machine right after reset, under the default configuration. -/
def State.reset : State :=
  State.powerUp Config.default

end Sys2Proof.Machine
end

