-- ==== Sys2Proof/Machine/Flags.lean ====
section
/-! DEFINITION. The two fields of STATUS, which are all the flags SCD has beside ECHO (10_state.md R11, R17). -/

namespace Sys2Proof.Machine

/-- `STATUS.WL` = STATUS[7], the current warning-light state (10_state.md R11). -/
def wlOf (status : Byte) : Bool :=
  status.getLsbD 7

/-- `STATUS.LAST` = STATUS[6:0], the masked opcode of the latest recording command (10_state.md R11). -/
def lastOf (status : Byte) : BitVec 7 :=
  status.extractLsb' 0 7

/-- `STATUS[7] <- level`; bits 6-0 stay (42_warning_light.md R100, R101). -/
def setWl (level : Bool) (status : Byte) : Byte :=
  if level then status ||| 0x80 else status &&& 0x7F

/-- `STATUS[6:0] <- m[6:0]`; bit 7 stays: `(STATUS & 0x80) | m` (10_state.md R13; 90_conflicts.md C4). -/
def recordLast (m : Opcode) (status : Byte) : Byte :=
  (status &&& 0x80) ||| maskOpcode m

end Sys2Proof.Machine
end

