-- ==== Sys2Proof/Machine/Operands.lean ====
section
/-! DEFINITION. The operands of a selection: which (bus, idx) pairs are wired, and the channels they name
(30_encoding.md R53, R58; 20_memory.md R37). The slot of CHK24V and RDSTAT is built into the code, and no other instruction
has an operand (43_config.md). -/

namespace Sys2Proof.Machine

/-- The bus a `bus` field names: 00 is EMS, 01 is DFS, 10 and 11 have no name and are unwired (30_encoding.md R58, R59 (c)). -/
def busOf (field : BusField) : Option Bus :=
  if field = 0 then some .ems else if field = 1 then some .dfs else none

/-- `CH_CHAIN(bus, idx)` where the pair is wired, from the configuration's table (20_memory.md R37). -/
def chainOf (cfg : Config) (bus : Bus) (idx : IdxField) : Option Nat :=
  (cfg.wiring.find? fun w => decide (w.bus = bus) && decide (w.idx = idx)).map Wire.channel

/-- `CH_BUSSEL(bus)` (20_memory.md R37). -/
def busselOf (cfg : Config) : Bus → Nat
  | .ems => cfg.chBusselEms
  | .dfs => cfg.chBusselDfs

/-- The two channels a wired selection asserts, `CH_CHAIN` and `CH_BUSSEL`; none when the pair is unwired
(44_selection.md R130, R131; 30_encoding.md R58, R59). -/
def selectionChannels (cfg : Config) (bus : BusField) (idx : IdxField) : Option (Nat × Nat) :=
  match busOf bus with
  | none => none
  | some b =>
    match chainOf cfg b idx with
    | none => none
    | some chain => some (chain, busselOf cfg b)

/-- `WIRED(bus, idx)` (00_scope.md R5). -/
def wired (cfg : Config) (bus : BusField) (idx : IdxField) : Bool :=
  (selectionChannels cfg bus idx).isSome

end Sys2Proof.Machine
end

