-- ==== Sys2Proof/Machine/Ops.lean ====
section
/-! DEFINITION. The named operations every meaning is built from: the state updates, the receive primitives, the output
transactions, the HAL calls, the echo, and taking one of the four errors. -/

namespace Sys2Proof.Machine

/-! ## State updates -/

/-- Append output events to the trace, in the order they are issued (20_memory.md R38). -/
def State.emit (es : List Event) (s : State) : State :=
  { s with trace := s.trace ++ es }

/-- Write STATUS. -/
def State.putStatus (v : Byte) (s : State) : State :=
  { s with status := v }

/-- Write ECHO. -/
def State.putEcho (v : Bool) (s : State) : State :=
  { s with echo := v }

/-- Put the control path somewhere, with the transient state alive there. -/
def State.putControl (c : Control) (s : State) : State :=
  { s with control := c }

/-- Set the bytes pending in RX. -/
def State.putRx (bytes : List Byte) (s : State) : State :=
  { s with rx := bytes }

/-- Set who acts next. -/
def State.putSchedule (moves : List Move) (s : State) : State :=
  { s with schedule := moves }

/-- One HAL answer was drawn: what is left of the scripted answers, and one more draw counted. -/
def State.putDrawn (left : HalAnswers) (s : State) : State :=
  { s with hal := left, draws := s.draws + 1 }

/-! ## The receive stream (20_memory.md R32) -/

/-- `RxAvail()`: RX is not empty. -/
def rxAvail (s : State) : Bool :=
  !s.rx.isEmpty

/-- `RxDrain()`: remove every byte pending now, as one atomic step (D14). -/
def rxDrain (s : State) : State :=
  s.putRx []

/-- Whether that many pending bytes would exceed a finite `RX_CAP` (70_reset_and_hazards.md R194). -/
def overCap (cfg : Config) (pending : Nat) : Bool :=
  match cfg.rxCap with
  | none => false
  | some cap => decide (cap < pending)

/-- The host appends bytes at RX's tail (20_memory.md R32); a run that would exceed a finite `RX_CAP` is refused, no drop
policy is invented (70_reset_and_hazards.md R194; log 13). -/
def hostSend (bytes : List Byte) (s : State) : Result :=
  if overCap s.cfg (s.rx ++ bytes).length then .refused .rxCapExceeded
  else .next (s.putRx (s.rx ++ bytes))

/-! ## The output transactions -/

/-- `Tx(msg)` (20_memory.md R42): it never blocks and never fails (D25; log 28). -/
def tx (msg : Message) (s : State) : State :=
  s.emit [.tx msg]

/-- `DWrite(level, slot, channel)` (45_output_sequencer.md R150). -/
def dwrite (level : Bool) (slot channel : Nat) (s : State) : State :=
  s.emit [.dwrite level slot channel]

/-- `DeassertAll`: one all-channels write on OUT_SLOT (45_output_sequencer.md R151, R152). -/
def deassertAll (s : State) : State :=
  dwrite false s.cfg.outSlot 0 s

/-- `SelectSeq`: deassert all, assert the chain output, assert the bus-select output (44_selection.md R131). -/
def selectSeq (chain bussel : Nat) (s : State) : State :=
  dwrite true s.cfg.outSlot bussel (dwrite true s.cfg.outSlot chain (deassertAll s))

/-- `WarnLight(level)` on its own port (45_output_sequencer.md R154; D22; log 19). -/
def warnLight (level : Bool) (s : State) : State :=
  s.emit [.warnLight level]

/-! ## The HAL calls (20_memory.md R31, R43)

Each draws its answer, from the scripted answers or, where there are none, from the free values of Config applied to the
count of draws, and records the call in the trace. -/

/-- The answer the next `Hal.init()` gets. -/
def nextInit (s : State) : Bool :=
  s.hal.init.head?.getD (Config.freeHalInit s.draws)

/-- The answer the next `Hal.isBaseActive()` gets. -/
def nextIsBaseActive (s : State) : Bool :=
  s.hal.isBaseActive.head?.getD (Config.freeHalIsBaseActive s.draws)

/-- The answer the next `Hal.getFwVersion()` gets. -/
def nextFwVersion (s : State) : Text :=
  s.hal.fwVersion.head?.getD (Config.freeHalFwVersion s.draws)

/-- The text the next `Hal.printModules()` writes. -/
def nextModules (s : State) : Text :=
  s.hal.modules.head?.getD (Config.freeHalModules s.draws)

/-- The answer the next `Hal.check24V()` gets. -/
def nextCheck24V (s : State) : CheckStatus :=
  s.hal.check24V.head?.getD (Config.freeHalCheck24V s.draws)

/-- The state after `Hal.init()`; the answer is `nextInit` of the state before. -/
def halInit (s : State) : State :=
  (s.emit [.halInit (nextInit s)]).putDrawn { s.hal with init := s.hal.init.tail }

/-- The state after `Hal.isBaseActive()`; the answer is `nextIsBaseActive` of the state before. -/
def halIsBaseActive (s : State) : State :=
  (s.emit [.halIsBaseActive (nextIsBaseActive s)]).putDrawn { s.hal with isBaseActive := s.hal.isBaseActive.tail }

/-- The state after `Hal.getFwVersion()`; the answer is `nextFwVersion` of the state before. -/
def halGetFwVersion (s : State) : State :=
  (s.emit [.halGetFwVersion (nextFwVersion s)]).putDrawn { s.hal with fwVersion := s.hal.fwVersion.tail }

/-- `Hal.printModules()`: the HAL itself writes its text to TX (20_memory.md R31; 43_config.md R109). -/
def halPrintModules (s : State) : State :=
  (s.emit [.halPrintModules, .tx (.modules (nextModules s))]).putDrawn { s.hal with modules := s.hal.modules.tail }

/-- `Hal.enableBaseController(enable)`: it returns nothing (20_memory.md R31). -/
def halEnableBaseController (enable : Bool) (s : State) : State :=
  s.emit [.halEnableBaseController enable]

/-- `Hal.check24V(slot)`: SCD discards the answer (43_config.md R110; log 10). -/
def halCheck24V (slot : Nat) (s : State) : State :=
  (s.emit [.halCheck24V slot (nextCheck24V s)]).putDrawn { s.hal with check24V := s.hal.check24V.tail }

/-! ## The step-1 echo (41_dispatch.md R91) -/

/-- What step 1 emits for a raw opcode: the echo when ECHO is set and the masked opcode is not the status query
(41_dispatch.md R90, R91; D15; log 17). -/
def echoEvents (s : State) (op : Opcode) : List Event :=
  if s.echo && decide (maskOpcode op ≠ formatC false s.cfg.opcQstat) then [.tx (.echo op)] else []

/-- Step 1 of a dispatch: emit the echo and go on. Every meaning begins with it, on the ECHO flag as it stands before the
opcode acts. -/
def echoStep (i : Instr) (s : State) : State :=
  s.emit (echoEvents s (encodeOpcode s.cfg i))

/-! ## Taking an error, and the return (60_exceptions.md) -/

/-- The error taxonomy: exactly four names, no numeric codes; the last carries the raw opcode its message shows
(60_exceptions.md R160, R165). -/
inductive ScdError where
  | framingError
  | notANumber
  | unwiredChannel
  | unrecognizedOpcode (op : Opcode)
  deriving DecidableEq, Repr

/-- The report of an error: one message, none for the silent UnwiredChannel (60_exceptions.md R161 to R164). -/
def errorReport : ScdError → List Event
  | .framingError => [.tx .framingError]
  | .notANumber => [.tx .notANumber]
  | .unwiredChannel => []
  | .unrecognizedOpcode op => [.tx (.unrecognized op)]

/-- `return`: the input cycle ends and the control path is at the top of the polling loop; there is nothing to restore
(00_scope.md R7; 60_exceptions.md R167). -/
def endCycle (s : State) : State :=
  s.putControl .polling

/-- `raise E`: what takes the place of trap entry. SCD saves nothing, changes no mode, masks nothing and jumps nowhere; it
performs the report and the input cycle ends (00_scope.md R7; 60_exceptions.md R166). -/
def takeError (e : ScdError) (s : State) : State :=
  endCycle (s.emit (errorReport e))

/-! ## INIT's repeat loop (43_config.md R113) -/

/-- One round of `repeat ok <- Hal.init() until ok`: when the HAL answers true, STATUS.LAST takes the sleep code and the
cycle ends; else the control path stays in the loop with the opcode in flight (log 11). -/
def initRound (op : Opcode) (s : State) : State :=
  if nextInit s then
    endCycle ((halInit s).putStatus (recordLast (formatC false s.cfg.opcSleep) s.status))
  else (halInit s).putControl (.initPolling op)

end Sys2Proof.Machine
end

