-- ==== Sys2Proof/Machine/ConfigSleep.lean ====
section
/-! DEFINITION. The config/sleep family (43_config.md). Every meaning begins with step 1
(41_dispatch.md R91) and ends its input cycle (`return`). -/

namespace Sys2Proof.Machine

/-- `SLEEP`: deassert all discrete outputs; STATUS.LAST takes the masked opcode (43_config.md R105). -/
def execSleep (wl : Bool) (s : State) : Result :=
  let s1 := deassertAll (echoStep (.sleep wl) s)
  .next (endCycle (s1.putStatus (recordLast (encodeOpcode s.cfg (.sleep wl)) s.status)))

/-- `TECHO`: invert ECHO and report the new value; the echo before it used the old one (43_config.md R106). -/
def execTecho (wl : Bool) (s : State) : Result :=
  let s1 := echoStep (.techo wl) s
  .next (endCycle (tx (.echoState !s.echo) (s1.putEcho !s.echo)))

/-- `FWVER` (43_config.md R107): with the base controller active, report the version; else nothing (D17; log 30). -/
def execFwver (wl : Bool) (s : State) : Result :=
  let s1 := echoStep (.fwver wl) s
  let s2 := halIsBaseActive s1
  .next (endCycle (if nextIsBaseActive s1 then tx (.fwVersion (nextFwVersion s2)) (halGetFwVersion s2) else s2))

/-- `BASEACT`: report active or inactive (43_config.md R108). -/
def execBaseact (wl : Bool) (s : State) : Result :=
  let s1 := echoStep (.baseact wl) s
  .next (endCycle (tx (.baseActive (nextIsBaseActive s1)) (halIsBaseActive s1)))

/-- `PRMOD` (43_config.md R109): with the base controller active, the HAL writes the module list; else nothing (D17; log 30). -/
def execPrmod (wl : Bool) (s : State) : Result :=
  let s1 := echoStep (.prmod wl) s
  let s2 := halIsBaseActive s1
  .next (endCycle (if nextIsBaseActive s1 then halPrintModules s2 else s2))

/-- Slot 3's check as the as-built side effect of the other slots' checks, after the check of slot 2 that the as-built
slot 1 may also perform (43_config.md R119; 93_implementation_defined.md U19; log 14). -/
def fallthroughChecks (slot : Nat) (s : State) : State :=
  let s1 := if slot = 1 ∧ Config.freeSlot2Check s.draws then halCheck24V 2 s else s
  if slot < 3 then halCheck24V 3 s1 else s1

/-- check-24V on a slot: query it and discard the answer (43_config.md R110 to R112); with `CHK24V_FALLTHROUGH`, go on as
built through slot 3's check into INIT (43_config.md R119). -/
def check24VAction (slot : Nat) (op : Opcode) (s : State) : State :=
  let s1 := halCheck24V slot s
  if s.cfg.chk24vFallthrough then initRound op (fallthroughChecks slot s1) else endCycle s1

/-- `CHK24V1` (43_config.md R110, R119). -/
def execChk24v1 (wl : Bool) (s : State) : Result :=
  .next (check24VAction 1 (encodeOpcode s.cfg (.chk24v1 wl)) (echoStep (.chk24v1 wl) s))

/-- `CHK24V2` (43_config.md R111, R119). -/
def execChk24v2 (wl : Bool) (s : State) : Result :=
  .next (check24VAction 2 (encodeOpcode s.cfg (.chk24v2 wl)) (echoStep (.chk24v2 wl) s))

/-- `CHK24V3` (43_config.md R112, R119). -/
def execChk24v3 (wl : Bool) (s : State) : Result :=
  .next (check24VAction 3 (encodeOpcode s.cfg (.chk24v3 wl)) (echoStep (.chk24v3 wl) s))

/-- `INIT`: poll `Hal.init()` until it answers true, then record the sleep code (43_config.md R113). This step makes the
first call; while the answer is false the control path stays in the loop and each further step makes one (log 11). -/
def execInit (wl : Bool) (s : State) : Result :=
  .next (initRound (encodeOpcode s.cfg (.init wl)) (echoStep (.init wl) s))

/-- `DISABLE`: disable the base controller; STATUS.LAST takes the masked opcode (43_config.md R114). -/
def execDisable (wl : Bool) (s : State) : Result :=
  let s1 := halEnableBaseController false (echoStep (.disable wl) s)
  .next (endCycle (s1.putStatus (recordLast (encodeOpcode s.cfg (.disable wl)) s.status)))

/-- `QSTAT`: report all 8 bits of STATUS, unchanged (43_config.md R115). -/
def execQstat (wl : Bool) (s : State) : Result :=
  .next (endCycle (tx (.status s.status) (echoStep (.qstat wl) s)))

/-- `RDSTAT1`: recognised, its action is in no source, refused by name (43_config.md R116; log 12). -/
def execRdstat1 (_wl : Bool) (_s : State) : Result :=
  .refused (.readStatusActionNotInSource 1)

/-- `RDSTAT2`: recognised, its action is in no source, refused by name (43_config.md R117; log 12). -/
def execRdstat2 (_wl : Bool) (_s : State) : Result :=
  .refused (.readStatusActionNotInSource 2)

/-- `RDSTAT3`: recognised, its action is in no source, refused by name (43_config.md R118; log 12). -/
def execRdstat3 (_wl : Bool) (_s : State) : Result :=
  .refused (.readStatusActionNotInSource 3)

/-- Read-status on a slot above 3 of a configuration that has one: a member of the enumeration like the others, refused by
name like them (00_scope.md R5; 43_config.md R116; log 3, log 12). -/
def execRdstatFurther (_wl : Bool) (slot : Nat) (_s : State) : Result :=
  .refused (.readStatusActionNotInSource slot)

end Sys2Proof.Machine
end

