-- ==== Sys2Proof/Machine/Selection.lean ====
section
/-! DEFINITION. The selection family (44_selection.md). Every meaning begins with step 1
(41_dispatch.md R91) and ends its input cycle (`return`). -/

namespace Sys2Proof.Machine

/-- `Select(m)`: a wired pair issues the three writes and records the masked opcode; an unwired pair takes the silent
error UnwiredChannel and, only with `UNWIRED_UPDATES_STATUS`, records the masked opcode (44_selection.md R130 to R132). -/
def selectAction (op : Opcode) (bus : BusField) (idx : IdxField) (s : State) : State :=
  match selectionChannels s.cfg bus idx with
  | some (chain, bussel) => (selectSeq chain bussel s).putStatus (recordLast op s.status)
  | none =>
    if s.cfg.unwiredUpdatesStatus then (takeError .unwiredChannel s).putStatus (recordLast op s.status)
    else takeError .unwiredChannel s

/-- Step 1 and `Select` for a selection instruction (44_selection.md R130). -/
def selectInstr (i : Instr) (bus : BusField) (idx : IdxField) (s : State) : State :=
  endCycle (selectAction (encodeOpcode s.cfg i) bus idx (echoStep i s))

/-- `SEL.EMS.1` (44_selection.md R133). -/
def execSelEms1 (wl : Bool) (s : State) : Result :=
  .next (selectInstr (.selEms1 wl) 0 1 s)

/-- `SEL.EMS.2` (44_selection.md R134). -/
def execSelEms2 (wl : Bool) (s : State) : Result :=
  .next (selectInstr (.selEms2 wl) 0 2 s)

/-- `SEL.EMS.3` (44_selection.md R135). -/
def execSelEms3 (wl : Bool) (s : State) : Result :=
  .next (selectInstr (.selEms3 wl) 0 3 s)

/-- `SEL.EMS.4` (44_selection.md R136). -/
def execSelEms4 (wl : Bool) (s : State) : Result :=
  .next (selectInstr (.selEms4 wl) 0 4 s)

/-- `SEL.DFS.1` (44_selection.md R137). -/
def execSelDfs1 (wl : Bool) (s : State) : Result :=
  .next (selectInstr (.selDfs1 wl) 1 1 s)

/-- `SEL.DFS.2` (44_selection.md R138). -/
def execSelDfs2 (wl : Bool) (s : State) : Result :=
  .next (selectInstr (.selDfs2 wl) 1 2 s)

/-- `SEL.DFS.3` (44_selection.md R139). -/
def execSelDfs3 (wl : Bool) (s : State) : Result :=
  .next (selectInstr (.selDfs3 wl) 1 3 s)

/-- `SEL.DFS.4` (44_selection.md R140). -/
def execSelDfs4 (wl : Bool) (s : State) : Result :=
  .next (selectInstr (.selDfs4 wl) 1 4 s)

/-- `SEL bus, idx` (44_selection.md R130). -/
def execSel (wl : Bool) (bus : BusField) (idx : IdxField) (s : State) : Result :=
  .next (selectInstr (.sel wl bus idx) bus idx s)

end Sys2Proof.Machine
end

