-- ==== Sys2Proof/Machine/Unrecognized.lean ====
section
/-! DEFINITION. Step 6 of the dispatch: unrecognized opcodes (41_dispatch.md R95). -/

namespace Sys2Proof.Machine

/-- `UNREC`: step 1, then the error UnrecognizedOpcode with the raw opcode (41_dispatch.md R95; 60_exceptions.md R164). -/
def execUnrec (wl : Bool) (code : Code) (s : State) : Result :=
  .next (takeError (.unrecognizedOpcode (encodeOpcode s.cfg (.unrec wl code))) (echoStep (.unrec wl code) s))

end Sys2Proof.Machine
end

