-- ==== Sys2Proof/Machine/WarningLight.lean ====
section
/-! DEFINITION. The warning-light family (42_warning_light.md). -/

namespace Sys2Proof.Machine

/-- Drive the lamp and its bit of STATUS to the same level; bits 6-0 stay (42_warning_light.md R100, R101). -/
def driveLight (level : Bool) (s : State) : State :=
  (warnLight level s).putStatus (setWl level s.status)

/-- `WLON` (42_warning_light.md R100). -/
def execWlon (s : State) : Result :=
  .next (endCycle (driveLight true (echoStep .wlon s)))

/-- `WLOFF` (42_warning_light.md R101). -/
def execWloff (s : State) : Result :=
  .next (endCycle (driveLight false (echoStep .wloff s)))

end Sys2Proof.Machine
end

