-- ==== Sys2Proof/Machine/Dispatch.lean ====
section
/-! DEFINITION. The dispatcher: one arm per instruction (41_dispatch.md R90). -/

namespace Sys2Proof.Machine

def exec (i : Instr) (s : State) : Host.Outcome State Fault Refusal :=
  match i with
  | .wlon => Sys2Proof.Machine.execWlon s
  | .wloff => Sys2Proof.Machine.execWloff s
  | .sleep wl => Sys2Proof.Machine.execSleep wl s
  | .techo wl => Sys2Proof.Machine.execTecho wl s
  | .fwver wl => Sys2Proof.Machine.execFwver wl s
  | .baseact wl => Sys2Proof.Machine.execBaseact wl s
  | .prmod wl => Sys2Proof.Machine.execPrmod wl s
  | .chk24v1 wl => Sys2Proof.Machine.execChk24v1 wl s
  | .chk24v2 wl => Sys2Proof.Machine.execChk24v2 wl s
  | .chk24v3 wl => Sys2Proof.Machine.execChk24v3 wl s
  | .init wl => Sys2Proof.Machine.execInit wl s
  | .disable wl => Sys2Proof.Machine.execDisable wl s
  | .qstat wl => Sys2Proof.Machine.execQstat wl s
  | .rdstat1 wl => Sys2Proof.Machine.execRdstat1 wl s
  | .rdstat2 wl => Sys2Proof.Machine.execRdstat2 wl s
  | .rdstat3 wl => Sys2Proof.Machine.execRdstat3 wl s
  | .rdstatFurther wl slot => Sys2Proof.Machine.execRdstatFurther wl slot s
  | .selEms1 wl => Sys2Proof.Machine.execSelEms1 wl s
  | .selEms2 wl => Sys2Proof.Machine.execSelEms2 wl s
  | .selEms3 wl => Sys2Proof.Machine.execSelEms3 wl s
  | .selEms4 wl => Sys2Proof.Machine.execSelEms4 wl s
  | .selDfs1 wl => Sys2Proof.Machine.execSelDfs1 wl s
  | .selDfs2 wl => Sys2Proof.Machine.execSelDfs2 wl s
  | .selDfs3 wl => Sys2Proof.Machine.execSelDfs3 wl s
  | .selDfs4 wl => Sys2Proof.Machine.execSelDfs4 wl s
  | .sel wl bus idx => Sys2Proof.Machine.execSel wl bus idx s
  | .unrec wl code => Sys2Proof.Machine.execUnrec wl code s

end Sys2Proof.Machine
end

