-- ==== Sys2Proof/Machine/Cycle.lean ====
section
/-! DEFINITION. The moves of the three agents, which Step.lean calls: the core's polling loop with its read phase
(40_decoder.md R70 to R77), the host's appends and the transport's timeout (20_memory.md R32). -/

namespace Sys2Proof.Machine

/-- What a complete read leads to: the opcode of the line is dispatched, or the line is NotANumber (40_decoder.md R70, R74
to R77, R81). -/
def dispatchLine (line : List Byte) (s : State) : Result :=
  match parseLine line with
  | some op => exec (decodeOpcode s.cfg op) s
  | none => .next (takeError .notANumber s)

/-- Go on with a read whose LINEBUF is `line` (40_decoder.md R71 to R73): a complete read is dispatched in the same step;
a full buffer without LF goes on to the drain; with RX empty the control path waits in RxGet (log 7). -/
def goOnReading (line : List Byte) (s : State) : Result :=
  match readLine line s.rx with
  | .complete got rest => dispatchLine got ((s.putRx rest).putControl .polling)
  | .full rest => .next ((s.putRx rest).putControl .draining)
  | .starved got => .next ((s.putRx []).putControl (.reading got))

/-- The core goes on from where its control path stands. At the top of the loop with no input it returns at once: an idle
iteration (40_decoder.md R70). A failed read drains RX and reports (R73). INIT's loop makes one more call (43_config.md R113). -/
def coreMove (s : State) : Result :=
  match s.control with
  | .polling => if rxAvail s then goOnReading [] s else .next s
  | .reading line => goOnReading line s
  | .draining => .next (takeError .framingError (rxDrain s))
  | .initPolling op => .next (initRound op s)

/-- The control path waits in RxGet and RX is empty: the only place the timeout can fire (20_memory.md R32; D12). -/
def waiting (s : State) : Bool :=
  match s.control with
  | .reading _ => !rxAvail s
  | .polling | .draining | .initPolling _ => false

/-- The transport's read timeout: it ends a wait on an empty RX, and the read with it; elsewhere it has no effect
(40_decoder.md R71, R73; log 8). -/
def timeoutMove (s : State) : State :=
  if waiting s then s.putControl .draining else s

/-- With nothing scheduled, no host byte comes any more: a wait ends by the timeout, and otherwise the core goes on
(40_decoder.md R78; 70_reset_and_hazards.md R196; log 6). -/
def defaultMove (s : State) : Result :=
  if waiting s then .next (timeoutMove s) else coreMove s

/-- The next agent's move (log 6). -/
def nextMove (s : State) : Result :=
  match s.schedule with
  | [] => defaultMove s
  | .hostSends bytes :: moves => hostSend bytes (s.putSchedule moves)
  | .timeout :: moves => .next (timeoutMove (s.putSchedule moves))
  | .core :: moves => coreMove (s.putSchedule moves)

/-- Place a line at the head of RX with the control path at the top of the polling loop and the core to act next. -/
def placeLine (line : List Byte) (s : State) : State :=
  ((s.putRx (line ++ s.rx)).putControl .polling).putSchedule (.core :: s.schedule)

/-- Place the line of a table word where the next step reads it; a word above 8 bits names no opcode and places nothing. -/
def placeTableWord (nbits w : Nat) (s : State) : State :=
  match opcodeOfTableWord nbits w with
  | none => s
  | some op => placeLine (lineOf op) s

end Sys2Proof.Machine
end

