-- ==== Sys2Proof/Machine/Step.lean ====
section
/-! DEFINITION. One step of the machine, and how an instruction is placed where the next step fetches it. -/

namespace Sys2Proof.Machine

/-- One step: the next move of whichever agent `schedule` says acts next; with an empty schedule the core acts. A core move
at the top of the polling loop with a whole line pending reads that line and runs its instruction to the end (log 7). -/
def step (s : State) : Host.Outcome State Fault Refusal :=
  nextMove s

/-- The state with the instruction's canonical line at the head of RX, so that the next step reads it and runs it (log 22). -/
def State.withFetchWord (s : State) (nbits w : Nat) : State :=
  placeTableWord nbits w s

end Sys2Proof.Machine
end

