-- ==== Sys2Proof/Machine/Observe.lean ====
section
/-! DEFINITION. What is observed of the machine: the pin image, the lamp command and the bytes on TX, all computed from the
trace (10_state.md R23; 45_output_sequencer.md R153, R154; 20_memory.md R42; log 20). -/

namespace Sys2Proof.Machine

/-- What one event does to the last commanded level of output `ch` of `slot`; channel 0 commands every channel of its slot
(45_output_sequencer.md R151, R153). -/
def pinStep (slot ch : Nat) (old : Option Bool) : Event → Option Bool
  | .dwrite level s c => if s = slot ∧ (c = 0 ∨ c = ch) then some level else old
  | _ => old

/-- `PIN(slot, ch)` for ch at least 1: the level SCD last commanded, none for unknown (45_output_sequencer.md R153). -/
def pin (trace : List Event) (slot ch : Nat) : Option Bool :=
  trace.foldl (pinStep slot ch) none

/-- What one event does to the last commanded lamp level (45_output_sequencer.md R154). -/
def wlcmdStep (old : Option Bool) : Event → Option Bool
  | .warnLight level => some level
  | _ => old

/-- `WLCMD`: the last commanded lamp level, none for unknown (45_output_sequencer.md R154). -/
def wlcmd (trace : List Event) : Option Bool :=
  trace.foldl wlcmdStep none

/-! ## Rendering of messages (92_eei_decisions.md D16; log 18) -/

/-- The ASCII bytes of a literal text. -/
def ascii (text : List Char) : Text :=
  text.map fun c => BitVec.ofNat 8 c.toNat

/-- One upper-case hexadecimal digit. -/
def hexDigit (n : Nat) : Byte :=
  if n < 10 then BitVec.ofNat 8 (0x30 + n) else BitVec.ofNat 8 (0x37 + n)

/-- `HH`: two upper-case hexadecimal digits. -/
def hexByte (v : Byte) : Text :=
  [hexDigit (v.toNat / 16), hexDigit (v.toNat % 16)]

/-- `DDD`: the decimal value of a byte without leading zeros. -/
def decimalByte (v : Byte) : Text :=
  if v.toNat < 10 then [hexDigit v.toNat]
  else if v.toNat < 100 then [hexDigit (v.toNat / 10), hexDigit (v.toNat % 10)]
  else [hexDigit (v.toNat / 100), hexDigit (v.toNat / 10 % 10), hexDigit (v.toNat % 10)]

/-- `BBBBBBBB` and the line end: eight binary digits, most significant first, the text form of a command line. -/
def binaryLine (v : Byte) : Text :=
  lineOf v

/-- The line end of a response. -/
def crlf : Text :=
  [asciiCr, asciiLf]

/-- The default `RENDER`: the table of 92_eei_decisions.md. Every line ends with CR LF; the module text stands as the HAL
wrote it, line ends included. DESIGN CHOICE of the spec, decision D16 (log 18). -/
def defaultRender : Message → Text
  | .echo op => ascii "Opcode: 0x".toList ++ hexByte op ++ ascii " (".toList ++ decimalByte op ++ ascii ")".toList ++ crlf
  | .echoState true => ascii "Echo: ON".toList ++ crlf
  | .echoState false => ascii "Echo: OFF".toList ++ crlf
  | .fwVersion version => ascii "FW: ".toList ++ version ++ crlf
  | .baseActive true => ascii "Base active: 1".toList ++ crlf
  | .baseActive false => ascii "Base active: 0".toList ++ crlf
  | .modules text => text
  | .status value => binaryLine value
  | .unrecognized op => ascii "WARNING: unrecognized opcode 0x".toList ++ hexByte op ++ crlf
  | .framingError => ascii "ERROR: framing".toList ++ crlf
  | .notANumber => ascii "ERROR: not a number".toList ++ crlf

/-- The messages of a trace, in order (20_memory.md R42). -/
def messages (trace : List Event) : List Message :=
  trace.filterMap fun
    | .tx msg => some msg
    | _ => none

/-- The bytes on TX under a rendering; `RENDER` is an argument, so a claim can hold for every rendering (00_scope.md R5). -/
def txBytes (render : Message → Text) (trace : List Event) : List Byte :=
  (messages trace).flatMap render

end Sys2Proof.Machine
end

