-- ==== Sys2Proof/Safety.lean ====
section
/-! DEFINITION. What claims are stated in: quiescence and the observation at the end of a run, the opcode a step works on,
what a class of opcodes may issue, and the invariants of the state. -/

namespace Sys2Proof.Machine

/-- The end of a run: RX is empty, the host sends nothing more, and the control path is at the top of the polling loop
(70_reset_and_hazards.md R184). -/
abbrev State.Quiescent (s : State) : Prop :=
  s.rx = [] ∧ s.schedule = [] ∧ s.control = .polling

/-- The observation at the end of a run: the trace and the pair (STATUS, ECHO) (70_reset_and_hazards.md R184). -/
def State.observation (s : State) : List Event × Byte × Bool :=
  (s.trace, s.status, s.echo)

/-- That many steps, stopping at the first refusal. -/
def runSteps : Nat → State → Result
  | 0, s => .next s
  | k + 1, s =>
    match step s with
    | .next t => runSteps k t
    | .fault f => .fault f
    | .refused r => .refused r

/-- The core acts next: nothing is scheduled, or a core move is (log 6). -/
abbrev State.CoreActs (s : State) : Prop :=
  s.schedule = [] ∨ s.schedule.head? = some .core

/-- The opcode of the line that a read holding `line` completes from the pending bytes; none where the read does not
complete or the line has no digits (40_decoder.md R80). -/
def lineOpcode (line pending : List Byte) : Option Opcode :=
  match readLine line pending with
  | .complete got _ => parseLine got
  | .full _ => none
  | .starved _ => none

/-- The opcode the next step dispatches, if it dispatches one (40_decoder.md R81). -/
def fetchedOpcode (s : State) : Option Opcode :=
  if s.CoreActs then
    match s.control with
    | .polling => lineOpcode [] s.rx
    | .reading line => lineOpcode line s.rx
    | .draining => none
    | .initPolling _ => none
  else none

/-- The opcode of the input cycle the next step works on: the one it dispatches, or the one in flight inside INIT's loop
(43_config.md R113). -/
def cycleOpcode (s : State) : Option Opcode :=
  match s.control with
  | .initPolling op => if s.CoreActs then some op else none
  | .polling => fetchedOpcode s
  | .reading _ => fetchedOpcode s
  | .draining => none

/-- The opcodes that may write STATUS.LAST (10_state.md R13, R27 (b)): sleep, init, disable, a check-24V as built, and a
selection that is wired or, with `UNWIRED_UPDATES_STATUS`, any. -/
def mayRecord (cfg : Config) (op : Opcode) : Prop :=
  (selField op = false ∧ (codeField op = cfg.opcSleep ∨ codeField op = cfg.opcInit ∨ codeField op = cfg.opcDisable ∨
      cfg.chk24vFallthrough = true ∧
        (codeField op = cfg.opcChk24v1 ∨ codeField op = cfg.opcChk24v2 ∨ codeField op = cfg.opcChk24v3))) ∨
    (selField op = true ∧ op ≠ 0xFF ∧ op ≠ 0x7F ∧
      (wired cfg (busField op) (idxField op) = true ∨ cfg.unwiredUpdatesStatus = true))

/-- Which events, besides the step-1 echo, the dispatch of an instruction may issue (41_dispatch.md R99; for a check-24V
with `CHK24V_FALLTHROUGH`, the as-built exception of 43_config.md R119, log 14). -/
def mayIssue (cfg : Config) : Instr → Event → Bool
  | .wlon, .warnLight level => level
  | .wloff, .warnLight level => !level
  | .sleep _, .dwrite level slot channel => !level && decide (slot = cfg.outSlot) && decide (channel = 0)
  | .techo _, .tx (.echoState _) => true
  | .fwver _, .halIsBaseActive _ => true
  | .fwver _, .halGetFwVersion _ => true
  | .fwver _, .tx (.fwVersion _) => true
  | .baseact _, .halIsBaseActive _ => true
  | .baseact _, .tx (.baseActive _) => true
  | .prmod _, .halIsBaseActive _ => true
  | .prmod _, .halPrintModules => true
  | .prmod _, .tx (.modules _) => true
  | .chk24v1 _, .halCheck24V slot _ => decide (slot = 1) || cfg.chk24vFallthrough && (decide (slot = 2) || decide (slot = 3))
  | .chk24v2 _, .halCheck24V slot _ => decide (slot = 2) || cfg.chk24vFallthrough && decide (slot = 3)
  | .chk24v3 _, .halCheck24V slot _ => decide (slot = 3)
  | .chk24v1 _, .halInit _ => cfg.chk24vFallthrough
  | .chk24v2 _, .halInit _ => cfg.chk24vFallthrough
  | .chk24v3 _, .halInit _ => cfg.chk24vFallthrough
  | .init _, .halInit _ => true
  | .disable _, .halEnableBaseController enable => !enable
  | .qstat _, .tx (.status _) => true
  | .unrec _ _, .tx (.unrecognized _) => true
  | i, .dwrite level slot channel =>
    match i.selection? with
    | some (bus, idx) =>
      match selectionChannels cfg bus idx with
      | some (chain, bussel) =>
        decide (slot = cfg.outSlot) &&
          (!level && decide (channel = 0) || level && (decide (channel = chain) || decide (channel = bussel)))
      | none => false
    | none => false
  | _, _ => false

/-- An event with another raw opcode shown, where it shows one: the echo and the unrecognized warning do (41_dispatch.md R91,
R95). -/
def reshow (shown : Opcode) : Event → Event
  | .tx (.echo _) => .tx (.echo shown)
  | .tx (.unrecognized _) => .tx (.unrecognized shown)
  | e => e

/-- LINEBUF is a read that has not ended: fewer than `N_LINE` bytes, none an LF (40_decoder.md R71). An opcode in flight
inside INIT's loop is INIT's own, or a check-24V's as built (43_config.md R113, R119). -/
abbrev State.ControlOk (s : State) : Prop :=
  match s.control with
  | .polling => True
  | .reading line => line.length < nLine ∧ asciiLf ∉ line
  | .draining => True
  | .initPolling op => (selField op = false ∧ (codeField op = s.cfg.opcInit ∨
      s.cfg.chk24vFallthrough = true ∧
        (codeField op = s.cfg.opcChk24v1 ∨ codeField op = s.cfg.opcChk24v2 ∨ codeField op = s.cfg.opcChk24v3)))

/-- RX holds no more than a finite `RX_CAP` (70_reset_and_hazards.md R194). -/
abbrev State.RxOk (s : State) : Prop :=
  overCap s.cfg s.rx.length = false

/-- The pin image of `OUT_SLOT` that no selection sequence is in the middle of: every channel unknown, every channel off,
or exactly the two channels of one wired selection on (45_output_sequencer.md R157). -/
def State.PinsOk (s : State) : Prop :=
  (∀ ch, 1 ≤ ch → pin s.trace s.cfg.outSlot ch = none) ∨
    (∀ ch, 1 ≤ ch → pin s.trace s.cfg.outSlot ch = some false) ∨
    ∃ bus idx chain bussel, selectionChannels s.cfg bus idx = some (chain, bussel) ∧
      ∀ ch, 1 ≤ ch → pin s.trace s.cfg.outSlot ch = some (decide (ch = chain ∨ ch = bussel))

/-- The lamp command is unknown or equals STATUS.WL (45_output_sequencer.md R154). -/
def State.LampOk (s : State) : Prop :=
  wlcmd s.trace = none ∨ wlcmd s.trace = some (wlOf s.status)

end Sys2Proof.Machine
end

