-- ==== Sys2Proof/Certificates/Slice0/Obligations.lean ====
section
/-! DEFINITION. The statements for the provers. Each docstring names the rule of spec/ it follows and, where a clause
rests on a choice (the spec's decision or the model's), the log entry. -/

open Sys2Proof Sys2Proof.Machine

/-! ## Encoding and decoding -/

/-- Under every allowed assignment of codes, the decoder reads back every well-formed instruction, every operand
included, from its line, and leaves the bytes behind it (30_encoding.md R50 to R58). -/
def Obligations.DecodeOfEncodeIsTheInstruction : Prop :=
  ∀ (cfg : Config) (i : Instr) (rest : List Byte), cfg.CodesOk → i.wf cfg = true →
    decode cfg (encode cfg i ++ rest) = .ok (i, rest)

/-- Every one of the 256 opcodes decodes, under every configuration, to a well-formed instruction whose encoding is that
opcode: no bit of the opcode, bit 7 included, is lost (30_encoding.md R53, R54, R63). -/
def Obligations.EncodeOfDecodeIsTheOpcode : Prop :=
  ∀ (cfg : Config) (op : Opcode),
    encodeOpcode cfg (decodeOpcode cfg op) = op ∧ (decodeOpcode cfg op).wf cfg = true

/-- The decision order of 30_encoding.md R56: the two exact patterns first, then a member of the enumeration, then the
selections with their fields, and everything else unrecognized. -/
def Obligations.OpcodesClassifyInTheFixedOrder : Prop :=
  ∀ (cfg : Config) (op : Opcode), cfg.CodesOk →
    (decodeOpcode cfg op = .wlon ↔ op = 0xFF) ∧
    (decodeOpcode cfg op = .wloff ↔ op = 0x7F) ∧
    (selField op = false →
      (codeField op = cfg.opcSleep → decodeOpcode cfg op = .sleep (wlField op)) ∧
      (codeField op = cfg.opcTecho → decodeOpcode cfg op = .techo (wlField op)) ∧
      (codeField op = cfg.opcFwver → decodeOpcode cfg op = .fwver (wlField op)) ∧
      (codeField op = cfg.opcBaseact → decodeOpcode cfg op = .baseact (wlField op)) ∧
      (codeField op = cfg.opcPrmod → decodeOpcode cfg op = .prmod (wlField op)) ∧
      (codeField op = cfg.opcChk24v1 → decodeOpcode cfg op = .chk24v1 (wlField op)) ∧
      (codeField op = cfg.opcChk24v2 → decodeOpcode cfg op = .chk24v2 (wlField op)) ∧
      (codeField op = cfg.opcChk24v3 → decodeOpcode cfg op = .chk24v3 (wlField op)) ∧
      (codeField op = cfg.opcInit → decodeOpcode cfg op = .init (wlField op)) ∧
      (codeField op = cfg.opcDisable → decodeOpcode cfg op = .disable (wlField op)) ∧
      (codeField op = cfg.opcQstat → decodeOpcode cfg op = .qstat (wlField op)) ∧
      (1 ≤ cfg.nslotRd → codeField op = cfg.rdstatCode 1 → decodeOpcode cfg op = .rdstat1 (wlField op)) ∧
      (2 ≤ cfg.nslotRd → codeField op = cfg.rdstatCode 2 → decodeOpcode cfg op = .rdstat2 (wlField op)) ∧
      (3 ≤ cfg.nslotRd → codeField op = cfg.rdstatCode 3 → decodeOpcode cfg op = .rdstat3 (wlField op)) ∧
      (∀ slot, 4 ≤ slot → slot ≤ cfg.nslotRd → codeField op = cfg.rdstatCode slot →
        decodeOpcode cfg op = .rdstatFurther (wlField op) slot) ∧
      (codeField op ∉ cfg.enumeration → decodeOpcode cfg op = .unrec (wlField op) (codeField op))) ∧
    (selField op = true → op ≠ 0xFF → op ≠ 0x7F →
      (decodeOpcode cfg op).selection? = some (busField op, idxField op))

/-- The census of 30_encoding.md R63 under the default configuration (its codes and wiring are the spec's decisions D2 and
D4; logs 2, 4): 1 and 1 warning-light values, 28 config/sleep values, 100 unrecognized, 126 selections of which 16 are
wired. -/
def Obligations.CensusOfTheDefaultOpcodes : Prop :=
  let ops := (List.range 256).map (BitVec.ofNat 8)
  let classOf := fun (p : Instr → Bool) => (ops.filter fun op => p (decodeOpcode Config.default op)).length
  classOf (fun i => decide (i = .wlon)) = 1 ∧
  classOf (fun i => decide (i = .wloff)) = 1 ∧
  classOf (fun i => match i with | .unrec _ _ => true | _ => false) = 100 ∧
  classOf (fun i => i.selection?.isSome) = 126 ∧
  classOf (fun i => match i.selection? with | some (bus, idx) => wired Config.default bus idx | none => false) = 16 ∧
  classOf (fun i => match i with
    | .wlon | .wloff | .unrec _ _ => false
    | j => j.selection?.isNone) = 28

/-- Words written out from the encoding tables decode to what they stand for (30_encoding.md R55, R57, R58; the document's
own examples, 95_test_vectors.md S2, S3, S8). The config codes are the spec's decision D2 (log 2). -/
def Obligations.WordsOfTheEncodingTables : Prop :=
  decode Config.default [0x30, 0x31, 0x30, 0x30, 0x30, 0x30, 0x30, 0x31, 0x0D, 0x0A] = .ok (.selEms1 false, []) ∧
  decode Config.default [0x31, 0x31, 0x31, 0x31, 0x31, 0x31, 0x31, 0x31, 0x0D, 0x0A] = .ok (.wlon, []) ∧
  decode Config.default [0x30, 0x31, 0x31, 0x31, 0x31, 0x31, 0x31, 0x31, 0x0D, 0x0A] = .ok (.wloff, []) ∧
  decode Config.default [0x31, 0x30, 0x30, 0x30, 0x31, 0x30, 0x30, 0x30, 0x0D, 0x0A] = .ok (.init true, []) ∧
  decode Config.default [0x31, 0x31, 0x30, 0x31, 0x30, 0x30, 0x31, 0x31, 0x0D, 0x0A] = .ok (.selDfs3 true, []) ∧
  decode Config.default [0x30, 0x31, 0x31, 0x30, 0x30, 0x30, 0x30, 0x31, 0x0D, 0x0A] = .ok (.sel false 2 1, []) ∧
  decode Config.default [0x30, 0x30, 0x31, 0x30, 0x31, 0x30, 0x30, 0x30, 0x0D, 0x0A] = .ok (.unrec false 0x28, []) ∧
  decode Config.default [0x78, 0x79, 0x7A, 0x0D, 0x0A] = .error .notANumber

/-- A line whose LF is among its first 10 bytes and that starts with a digit run is the run's value, most significant digit
first, modulo 256; everything from the first other byte on is ignored, further digits included (40_decoder.md R76, R77).
For lines other than the canonical one (LF without CR, nine digits, a prefix) this rests on the spec's decisions D9 and D10,
log 16 (unsafe). The value is at most 511; the worked examples. -/
def Obligations.DigitRunDecodesToItsValueModulo256 : Prop :=
  (∀ (digits : List Bool) (tail rest : List Byte), digits ≠ [] → digits.length + tail.length ≤ 9 →
    asciiLf ∉ tail → tail.head? ≠ some asciiZero → tail.head? ≠ some asciiOne →
    digits.foldl (fun v d => 2 * v + d.toNat) 0 ≤ 511 ∧
    decodeBytes (digits.map digitByte ++ tail ++ asciiLf :: rest) =
      .ok (BitVec.ofNat 8 (digits.foldl (fun v d => 2 * v + d.toNat) 0), rest)) ∧
  decodeBytes [0x30, 0x31, 0x30, 0x30, 0x30, 0x30, 0x30, 0x31, 0x0D, 0x0A] = .ok (0x41, []) ∧
  decodeBytes [0x30, 0x31, 0x30, 0x30, 0x7A, 0x7A, 0x30, 0x31, 0x0D, 0x0A] = .ok (0x04, [])

/-- A complete line whose first byte is no binary digit is NotANumber: consumed up to and including its LF, nothing
drained, nothing dispatched, one message (40_decoder.md R75; 60_exceptions.md R162). The examples of R75. That a blank, a
sign or a prefix begins no literal and that a bare LF ends a line are the spec's decisions D10 and D9, log 16 (unsafe). -/
def Obligations.LineWithoutDigitsIsNotANumber : Prop :=
  (∀ (s : State) (line rest : List Byte), s.control = .polling → s.CoreActs → line.length ≤ 9 → asciiLf ∉ line →
    line.head? ≠ some asciiZero → line.head? ≠ some asciiOne → s.rx = line ++ asciiLf :: rest →
    step s = .next { s with rx := rest, schedule := s.schedule.tail, trace := s.trace ++ [.tx .notANumber] }) ∧
  decodeBytes [0x78, 0x79, 0x7A, 0x0D, 0x0A] = .error .notANumber ∧
  decodeBytes [0x0D, 0x0A] = .error .notANumber ∧
  decodeBytes [0x0A] = .error .notANumber ∧
  decodeBytes [0x32, 0x0D, 0x0A] = .error .notANumber ∧
  decodeBytes [0x20, 0x30, 0x31, 0x30, 0x30, 0x30, 0x30, 0x30, 0x31, 0x0A] = .error .notANumber

/-- A read fails when the timeout ends a wait on an empty RX or when 10 bytes hold no LF; the bytes read are discarded,
nothing is parsed; then every byte pending at that moment is drained and one message is sent (40_decoder.md R73;
60_exceptions.md R161). The example of R73. -/
def Obligations.FramingErrorDrainsAndReports : Prop :=
  (∀ (s : State) (first rest : List Byte), s.control = .polling → s.CoreActs → first.length = 10 → asciiLf ∉ first →
    s.rx = first ++ rest →
    step s = .next { s with rx := rest, schedule := s.schedule.tail, control := .draining }) ∧
  (∀ (s : State) (line : List Byte) (moves : List Move), s.control = .reading line → s.rx = [] →
    s.schedule = .timeout :: moves → step s = .next { s with schedule := moves, control := .draining }) ∧
  (∀ s : State, s.control = .draining → s.CoreActs →
    step s = .next { s with rx := [], schedule := s.schedule.tail, control := .polling,
                            trace := s.trace ++ [.tx .framingError] }) ∧
  (∀ s : State, s.control = .polling → s.schedule = [] →
    s.rx = [0x30, 0x31, 0x30, 0x30, 0x30, 0x30, 0x30, 0x31, 0x30, 0x30, 0x0D, 0x0A] →
    runSteps 2 s = .next { s with rx := [], trace := s.trace ++ [.tx .framingError] })

/-- The timeout fires only on an empty RX: anywhere but in a wait on an empty RX it changes nothing (20_memory.md R32,
decision D12; log 8). -/
def Obligations.TimeoutOnlyWhileWaiting : Prop :=
  ∀ (s : State) (moves : List Move), s.schedule = .timeout :: moves →
    ((∀ line, s.control ≠ .reading line) ∨ s.rx ≠ []) → step s = .next { s with schedule := moves }

/-- A read that finds fewer than 10 bytes and no LF waits with the bytes it has (40_decoder.md R71, R78). -/
def Obligations.ShortReadWaitsForMoreBytes : Prop :=
  ∀ s : State, s.control = .polling → s.CoreActs → s.rx ≠ [] → s.rx.length < 10 → asciiLf ∉ s.rx →
    step s = .next { s with rx := [], schedule := s.schedule.tail, control := .reading s.rx }

/-- The host's pacing does not change a read: bytes that arrive while the read waits are read as if they had been pending
all along, under an unbounded RX_CAP or a finite one that they do not exceed together (40_decoder.md R71, R78;
20_memory.md R32). -/
def Obligations.ReadInTwoPartsEqualsReadAtOnce : Prop :=
  ∀ (s : State) (first later : List Byte), s.control = .polling →
    (∀ cap, s.cfg.rxCap = some cap → first.length + later.length ≤ cap) → first ≠ [] → first.length < 10 →
    asciiLf ∉ first →
    runSteps 3
        { s with rx := first, schedule := [.core, .hostSends later, .core] } =
      step { s with rx := first ++ later, schedule := [.core] }

/-- A blocked read ends: with nothing scheduled, two steps bring the control path back to the top of the loop with one
framing error and STATUS and ECHO untouched (40_decoder.md R78, R73; the timeout on an empty schedule is log 6). -/
def Obligations.BlockedReadEndsInTwoSteps : Prop :=
  ∀ (s : State) (line : List Byte), s.control = .reading line → s.rx = [] → s.schedule = [] →
    runSteps 2 s =
      .next { s with control := .polling, trace := s.trace ++ [.tx .framingError] }

/-! ## The polling loop -/

/-- A step at the top of the loop with a complete line pending runs exec of the line's instruction, on the state with the
line consumed; with an instruction's own encoding pending, it runs exactly that instruction (40_decoder.md R70, R72, R81). -/
def Obligations.StepRunsTheDecodedInstruction : Prop :=
  (∀ (s : State) (line rest : List Byte) (op : Opcode), s.control = .polling → s.CoreActs → line.length ≤ 9 →
    asciiLf ∉ line → parseLine (line ++ [asciiLf]) = some op → s.rx = line ++ asciiLf :: rest →
    step s = exec (decodeOpcode s.cfg op) { s with rx := rest, schedule := s.schedule.tail }) ∧
  (∀ (s : State) (i : Instr) (rest : List Byte), s.cfg.CodesOk → i.wf s.cfg = true → s.control = .polling →
    s.CoreActs → s.rx = encode s.cfg i ++ rest →
    step s = exec i { s with rx := rest, schedule := s.schedule.tail })

/-- An iteration that finds no input changes nothing, and a quiescent machine stays as it is (40_decoder.md R70;
70_reset_and_hazards.md R184). -/
def Obligations.IdleIterationChangesNothing : Prop :=
  (∀ s : State, s.control = .polling → s.CoreActs → s.rx = [] → step s = .next { s with schedule := s.schedule.tail }) ∧
  (∀ s : State, s.Quiescent → step s = .next s)

/-- The host appends at RX's tail whatever the control path is doing, and nothing else changes; bytes that would exceed a
finite RX_CAP refuse the step by name (20_memory.md R32; 70_reset_and_hazards.md R194, decision D13; log 13). -/
def Obligations.HostBytesQueueUp : Prop :=
  ∀ (s : State) (bytes : List Byte) (moves : List Move), s.schedule = .hostSends bytes :: moves →
    (s.cfg.rxCap = none → step s = .next { s with rx := s.rx ++ bytes, schedule := moves }) ∧
    (∀ cap, s.cfg.rxCap = some cap → s.rx.length + bytes.length ≤ cap →
      step s = .next { s with rx := s.rx ++ bytes, schedule := moves }) ∧
    (∀ cap, s.cfg.rxCap = some cap → cap < s.rx.length + bytes.length → step s = .refused .rxCapExceeded)

/-! ## Step 1 -/

/-- Of every dispatched opcode the trace gains first the echo of the raw opcode, when ECHO was set before the opcode acted
and the opcode is not the status query, and no other echo (41_dispatch.md R91; the masked compare is decision D15, log 17). -/
def Obligations.EchoComesFirstAndOnce : Prop :=
  ∀ (s t : State) (op : Opcode), s.cfg.CodesOk → exec (decodeOpcode s.cfg op) s = .next t →
    ∃ es, t.trace = s.trace ++
        (if s.echo = true ∧ decodeOpcode s.cfg op ≠ .qstat false ∧ decodeOpcode s.cfg op ≠ .qstat true
          then [.tx (.echo op)] else []) ++ es ∧
      ∀ shown, Event.tx (.echo shown) ∉ es

/-! ## Warning light -/

/-- WLON is the opcode 0xFF exactly; after the echo it drives the light on and sets STATUS[7], and nothing else changes,
whether the light was on or not; the example of 42_warning_light.md R100. -/
def Obligations.WlonSetsOnlyTheLight : Prop :=
  (∀ (cfg : Config) (op : Opcode), decodeOpcode cfg op = .wlon ↔ op = 0xFF) ∧
  (∀ cfg : Config, decode cfg [0x31, 0x31, 0x31, 0x31, 0x31, 0x31, 0x31, 0x31, 0x0D, 0x0A] = .ok (.wlon, [])) ∧
  (∀ s : State, exec .wlon s = .next { s with
    status := s.status ||| 0x80
    control := .polling
    trace := s.trace ++ (if s.echo then [.tx (.echo 0xFF)] else []) ++ [.warnLight true] }) ∧
  ∀ s t : State, s.status = 0x41 → exec .wlon s = .next t → t.status = 0xC1

/-- WLOFF is the opcode 0x7F exactly; after the echo it drives the light off and clears STATUS[7], and nothing else changes,
whether the light was off or not; the example of 42_warning_light.md R101. -/
def Obligations.WloffClearsOnlyTheLight : Prop :=
  (∀ (cfg : Config) (op : Opcode), decodeOpcode cfg op = .wloff ↔ op = 0x7F) ∧
  (∀ cfg : Config, decode cfg [0x30, 0x31, 0x31, 0x31, 0x31, 0x31, 0x31, 0x31, 0x0D, 0x0A] = .ok (.wloff, [])) ∧
  (∀ s : State, exec .wloff s = .next { s with
    status := s.status &&& 0x7F
    control := .polling
    trace := s.trace ++ (if s.echo then [.tx (.echo 0x7F)] else []) ++ [.warnLight false] }) ∧
  ∀ s t : State, s.status = 0xC1 → exec .wloff s = .next t → t.status = 0x41

/-! ## Config/sleep: results, with the frame (the whole next state) -/

/-- SLEEP issues one all-channels deassert on OUT_SLOT and records the sleep code in STATUS[6:0]; STATUS[7], ECHO, RX and
all else stay (43_config.md R105; one write is decision D21, log 19). -/
def Obligations.SleepDeassertsAllAndRecords : Prop :=
  ∀ (s : State) (wl : Bool), exec (.sleep wl) s = .next { s with
    status := (s.status &&& 0x80) ||| formatC false s.cfg.opcSleep
    control := .polling
    trace := s.trace ++ echoEvents s (formatC wl s.cfg.opcSleep) ++ [.dwrite false s.cfg.outSlot 0] }

/-- TECHO inverts ECHO and reports the new value, after the echo that used the old one; STATUS stays (43_config.md R106). -/
def Obligations.TechoInvertsAndReports : Prop :=
  ∀ (s : State) (wl : Bool), exec (.techo wl) s = .next { s with
    echo := !s.echo
    control := .polling
    trace := s.trace ++ echoEvents s (formatC wl s.cfg.opcTecho) ++ [.tx (.echoState !s.echo)] }

/-- FWVER asks whether the base controller is active; if so it asks for the version and reports it, if not it says nothing
(43_config.md R107; the silence is decision D17, log 30). Nothing of STATUS or ECHO changes. -/
def Obligations.FwverReportsTheVersionIfActive : Prop :=
  ∀ (s : State) (wl : Bool),
    (nextIsBaseActive s = true → exec (.fwver wl) s = .next { s with
      control := .polling
      trace := s.trace ++ echoEvents s (formatC wl s.cfg.opcFwver) ++
        [.halIsBaseActive true, .halGetFwVersion (s.hal.fwVersion.head?.getD (Config.freeHalFwVersion (s.draws + 1))),
          .tx (.fwVersion (s.hal.fwVersion.head?.getD (Config.freeHalFwVersion (s.draws + 1))))]
      hal := { s.hal with isBaseActive := s.hal.isBaseActive.tail, fwVersion := s.hal.fwVersion.tail }
      draws := s.draws + 2 }) ∧
    (nextIsBaseActive s = false → exec (.fwver wl) s = .next { s with
      control := .polling
      trace := s.trace ++ echoEvents s (formatC wl s.cfg.opcFwver) ++ [.halIsBaseActive false]
      hal := { s.hal with isBaseActive := s.hal.isBaseActive.tail }
      draws := s.draws + 1 })

/-- BASEACT reports what the HAL answers, active or not (43_config.md R108). -/
def Obligations.BaseactReportsTheAnswer : Prop :=
  ∀ (s : State) (wl : Bool), exec (.baseact wl) s = .next { s with
    control := .polling
    trace := s.trace ++ echoEvents s (formatC wl s.cfg.opcBaseact) ++
      [.halIsBaseActive (nextIsBaseActive s), .tx (.baseActive (nextIsBaseActive s))]
    hal := { s.hal with isBaseActive := s.hal.isBaseActive.tail }
    draws := s.draws + 1 }

/-- PRMOD has the HAL write its module text when the base controller is active, and says nothing when it is not
(43_config.md R109; the silence is decision D17, log 30). -/
def Obligations.PrmodEnumeratesIfActive : Prop :=
  ∀ (s : State) (wl : Bool),
    (nextIsBaseActive s = true → exec (.prmod wl) s = .next { s with
      control := .polling
      trace := s.trace ++ echoEvents s (formatC wl s.cfg.opcPrmod) ++
        [.halIsBaseActive true, .halPrintModules,
          .tx (.modules (s.hal.modules.head?.getD (Config.freeHalModules (s.draws + 1))))]
      hal := { s.hal with isBaseActive := s.hal.isBaseActive.tail, modules := s.hal.modules.tail }
      draws := s.draws + 2 }) ∧
    (nextIsBaseActive s = false → exec (.prmod wl) s = .next { s with
      control := .polling
      trace := s.trace ++ echoEvents s (formatC wl s.cfg.opcPrmod) ++ [.halIsBaseActive false]
      hal := { s.hal with isBaseActive := s.hal.isBaseActive.tail }
      draws := s.draws + 1 })

/-- Without the fall-through, CHK24V1 to CHK24V3 query their own slot once and discard the answer: no message, no write, no
other slot, no INIT (43_config.md R110 to R112; the setting is decision D18, log 14). -/
def Obligations.Check24VQueriesItsSlotOnly : Prop :=
  ∀ (s : State) (wl : Bool), s.cfg.chk24vFallthrough = false →
    let after := fun (op : Opcode) (slot : Nat) => { s with
      control := .polling
      trace := s.trace ++ echoEvents s op ++ [.halCheck24V slot (nextCheck24V s)]
      hal := { s.hal with check24V := s.hal.check24V.tail }
      draws := s.draws + 1 }
    exec (.chk24v1 wl) s = .next (after (formatC wl s.cfg.opcChk24v1) 1) ∧
    exec (.chk24v2 wl) s = .next (after (formatC wl s.cfg.opcChk24v2) 2) ∧
    exec (.chk24v3 wl) s = .next (after (formatC wl s.cfg.opcChk24v3) 3)

/-- With the fall-through of the hardware as built, a check-24V also performs slot 3's check (slots 1 and 2) and goes on
into INIT: its first poll of `Hal.init`, after which STATUS[6:0] is the sleep code or the control path stays in INIT's loop
(43_config.md R119). Slot 1 may or may not also check slot 2 (93_implementation_defined.md U19; log 14). -/
def Obligations.Check24VAsBuiltFallsThroughToInit : Prop :=
  ∀ (s : State) (wl : Bool), s.cfg.chk24vFallthrough = true →
    let goesOn := fun (i : Instr) (op : Opcode) (slots : List Nat) => ∃ t answers ok,
      exec i s = .next t ∧ answers.length = slots.length ∧
      t.trace = s.trace ++ echoEvents s op ++ List.zipWith Event.halCheck24V slots answers ++ [.halInit ok] ∧
      (ok = true → t.control = .polling ∧ t.status = (s.status &&& 0x80) ||| formatC false s.cfg.opcSleep) ∧
      (ok = false → t.control = .initPolling op ∧ t.status = s.status) ∧
      t.echo = s.echo ∧ t.rx = s.rx ∧ t.schedule = s.schedule ∧ t.cfg = s.cfg
    (goesOn (.chk24v1 wl) (formatC wl s.cfg.opcChk24v1) [1, 3] ∨
      goesOn (.chk24v1 wl) (formatC wl s.cfg.opcChk24v1) [1, 2, 3]) ∧
    goesOn (.chk24v2 wl) (formatC wl s.cfg.opcChk24v2) [2, 3] ∧
    goesOn (.chk24v3 wl) (formatC wl s.cfg.opcChk24v3) [3]

/-- INIT polls `Hal.init()`; on true it records the sleep code, not its own, and the cycle ends; on false it stays in its
loop. No discrete write; STATUS[7], ECHO and RX stay (43_config.md R113; one call a step is log 11, no write is D20, log 30). -/
def Obligations.InitPollsAndRecordsSleep : Prop :=
  ∀ (s : State) (wl : Bool),
    (nextInit s = true → exec (.init wl) s = .next { s with
      status := (s.status &&& 0x80) ||| formatC false s.cfg.opcSleep
      control := .polling
      trace := s.trace ++ echoEvents s (formatC wl s.cfg.opcInit) ++ [.halInit true]
      hal := { s.hal with init := s.hal.init.tail }
      draws := s.draws + 1 }) ∧
    (nextInit s = false → exec (.init wl) s = .next { s with
      control := .initPolling (formatC wl s.cfg.opcInit)
      trace := s.trace ++ echoEvents s (formatC wl s.cfg.opcInit) ++ [.halInit false]
      hal := { s.hal with init := s.hal.init.tail }
      draws := s.draws + 1 })

/-- Inside INIT's loop n false answers and then a true one take n + 1 steps, each one call of `Hal.init()`, and leave the
sleep code in STATUS[6:0]; while the answers are false the loop goes on, without a bound. RX is not read: bytes sent
meanwhile wait (43_config.md R113; 70_reset_and_hazards.md R188). -/
def Obligations.InitLoopRunsUntilTrue : Prop :=
  (∀ (n : Nat) (s : State) (op : Opcode) (left : List Bool), s.control = .initPolling op → s.schedule = [] →
    s.hal.init = List.replicate n false ++ true :: left →
    runSteps (n + 1) s = .next { s with
      status := (s.status &&& 0x80) ||| formatC false s.cfg.opcSleep
      control := .polling
      trace := s.trace ++ List.replicate n (.halInit false) ++ [.halInit true]
      hal := { s.hal with init := left }
      draws := s.draws + (n + 1) }) ∧
  (∀ (n : Nat) (s : State) (op : Opcode) (left : List Bool), s.control = .initPolling op → s.schedule = [] →
    s.hal.init = List.replicate n false ++ left →
    runSteps n s = .next { s with
      trace := s.trace ++ List.replicate n (.halInit false)
      hal := { s.hal with init := left }
      draws := s.draws + n })

/-- DISABLE disables the base controller and records its own code; no discrete write (43_config.md R114; no write is D32,
log 30). -/
def Obligations.DisableRecordsItsCode : Prop :=
  ∀ (s : State) (wl : Bool), exec (.disable wl) s = .next { s with
    status := (s.status &&& 0x80) ||| formatC false s.cfg.opcDisable
    control := .polling
    trace := s.trace ++ echoEvents s (formatC wl s.cfg.opcDisable) ++ [.halEnableBaseController false] }

/-- QSTAT sends all 8 bits of STATUS, changes nothing, and is never echoed, with ECHO set or not and bit 7 of the opcode
set or not: one message per query (43_config.md R115; 41_dispatch.md R91; the masked compare is decision D15, log 17). -/
def Obligations.QstatReportsStatusUnechoed : Prop :=
  ∀ (s : State) (wl : Bool), exec (.qstat wl) s = .next { s with
    control := .polling
    trace := s.trace ++ [.tx (.status s.status)] }

/-- The read-status opcodes of the slots that exist, slots above 3 included, are recognised as such, and their action, which is in no source, is
refused by name in every state (43_config.md R116 to R118; 93_implementation_defined.md U5; decision D19, log 12). -/
def Obligations.ReadStatusIsRecognisedAndRefused : Prop :=
  (∀ (cfg : Config) (wl : Bool), cfg.CodesOk →
    (1 ≤ cfg.nslotRd → decodeOpcode cfg (formatC wl (cfg.rdstatCode 1)) = .rdstat1 wl) ∧
    (2 ≤ cfg.nslotRd → decodeOpcode cfg (formatC wl (cfg.rdstatCode 2)) = .rdstat2 wl) ∧
    (3 ≤ cfg.nslotRd → decodeOpcode cfg (formatC wl (cfg.rdstatCode 3)) = .rdstat3 wl) ∧
    (∀ slot, 4 ≤ slot → slot ≤ cfg.nslotRd →
      decodeOpcode cfg (formatC wl (cfg.rdstatCode slot)) = .rdstatFurther wl slot)) ∧
  (∀ (s : State) (wl : Bool),
    exec (.rdstat1 wl) s = .refused (.readStatusActionNotInSource 1) ∧
    exec (.rdstat2 wl) s = .refused (.readStatusActionNotInSource 2) ∧
    exec (.rdstat3 wl) s = .refused (.readStatusActionNotInSource 3) ∧
    ∀ slot, exec (.rdstatFurther wl slot) s = .refused (.readStatusActionNotInSource slot))

/-! ## Selection and unrecognized -/

/-- A wired selection, of a row of its own or generic, issues exactly three writes on OUT_SLOT (deassert all, the chain
channel, the bus-select channel, in this order) and records the masked opcode in STATUS[6:0]; nothing else changes
(44_selection.md R130, R131; the order is D23, log 19). -/
def Obligations.WiredSelectionWritesThreeAndRecords : Prop :=
  ∀ (s : State) (i : Instr) (bus : BusField) (idx : IdxField) (chain bussel : Nat),
    i.selection? = some (bus, idx) → selectionChannels s.cfg bus idx = some (chain, bussel) →
    exec i s = .next { s with
      status := (s.status &&& 0x80) ||| formatS false bus idx
      control := .polling
      trace := s.trace ++ echoEvents s (formatS i.wlBit bus idx) ++
        [.dwrite false s.cfg.outSlot 0, .dwrite true s.cfg.outSlot chain, .dwrite true s.cfg.outSlot bussel] }

/-- An unwired selection does nothing but the echo: no write, no message, no HAL call; STATUS stays, or takes the masked
opcode in bits 6-0 with UNWIRED_UPDATES_STATUS (44_selection.md R132; decision D5, log 15). Bus codes 10 and 11 are unwired
for every index (R141 (c)). -/
def Obligations.UnwiredSelectionIsSilent : Prop :=
  (∀ (s : State) (i : Instr) (bus : BusField) (idx : IdxField),
    i.selection? = some (bus, idx) → wired s.cfg bus idx = false →
    exec i s = .next { s with
      status := if s.cfg.unwiredUpdatesStatus then (s.status &&& 0x80) ||| formatS false bus idx else s.status
      control := .polling
      trace := s.trace ++ echoEvents s (formatS i.wlBit bus idx) }) ∧
  (∀ (cfg : Config) (idx : IdxField), wired cfg 2 idx = false ∧ wired cfg 3 idx = false)

/-- The eight wired selections under the default configuration, opcode and writes written out (44_selection.md R133 to R140;
the channel and slot numbers are the spec's decision D4, log 4). -/
def Obligations.EightDefaultSelections : Prop :=
  ∀ (s : State) (wl : Bool), s.cfg = Config.default →
    let selects := fun (m : Opcode) (i : Instr) (chain bussel : Nat) =>
      decodeOpcode s.cfg (if wl then m ||| 0x80 else m) = i ∧
      exec i s = .next { s with
        status := (s.status &&& 0x80) ||| m
        control := .polling
        trace := s.trace ++ (if s.echo then [.tx (.echo (if wl then m ||| 0x80 else m))] else []) ++
          [.dwrite false 1 0, .dwrite true 1 chain, .dwrite true 1 bussel] }
    selects 0x41 (.selEms1 wl) 1 5 ∧ selects 0x42 (.selEms2 wl) 2 5 ∧ selects 0x43 (.selEms3 wl) 3 5 ∧
    selects 0x44 (.selEms4 wl) 4 5 ∧ selects 0x51 (.selDfs1 wl) 1 6 ∧ selects 0x52 (.selDfs2 wl) 2 6 ∧
    selects 0x53 (.selDfs3 wl) 3 6 ∧ selects 0x54 (.selDfs4 wl) 4 6

/-- An opcode with bit 6 clear whose code is no member of the enumeration is reported with its raw value in one message, and
nothing else happens: no state change, no write, no HAL call; the echo, if any, comes first; no other opcode ends there
(41_dispatch.md R95; 60_exceptions.md R164). Under any allowed codes 0x28 is one (the document's example `0b00101000`). -/
def Obligations.UnrecognizedOpcodeIsReportedOnly : Prop :=
  (∀ (s : State) (op : Opcode), selField op = false → codeField op ∉ s.cfg.enumeration →
    exec (decodeOpcode s.cfg op) s = .next { s with
      control := .polling
      trace := s.trace ++ echoEvents s op ++ [.tx (.unrecognized op)] }) ∧
  (∀ (s : State) (wl : Bool) (code : Code), exec (.unrec wl code) s = .next { s with
      control := .polling
      trace := s.trace ++ echoEvents s (formatC wl code) ++ [.tx (.unrecognized (formatC wl code))] }) ∧
  (∀ (cfg : Config) (op : Opcode) (wl : Bool) (code : Code), decodeOpcode cfg op = .unrec wl code →
    selField op = false ∧ codeField op = code ∧ code ∉ cfg.enumeration) ∧
  (∀ cfg : Config, cfg.CodesOk → decodeOpcode cfg 0x28 = .unrec false 0x28)

/-! ## The whole machine -/

/-- STATUS.WL is written by the two warning-light opcodes only: a step that dispatches 0xFF leaves it 1, one that dispatches
0x7F leaves it 0, every other step leaves it as it was, bit 7 of the opcode notwithstanding (10_state.md R12). -/
def Obligations.LightBitIsWrittenByTheLightOpcodesOnly : Prop :=
  ∀ s t : State, step s = .next t →
    (fetchedOpcode s = some 0xFF → wlOf t.status = true) ∧
    (fetchedOpcode s = some 0x7F → wlOf t.status = false) ∧
    (fetchedOpcode s ≠ some 0xFF → fetchedOpcode s ≠ some 0x7F → wlOf t.status = wlOf s.status)

/-- The invariants of 10_state.md R27: WL changes only in a cycle of 0xFF or 0x7F, LAST only in a cycle of sleep, init,
disable, a wired selection (or of an unwired one or a check-24V, where the parameters say so), ECHO only in a cycle of
toggle-echo; a step that works on no opcode (idle, waiting, failed decode, host, timeout) changes none of them. -/
def Obligations.StatusAndEchoChangeOnlyInTheirCycles : Prop :=
  ∀ s t : State, s.ControlOk → step s = .next t →
    (wlOf t.status ≠ wlOf s.status → cycleOpcode s = some 0xFF ∨ cycleOpcode s = some 0x7F) ∧
    (lastOf t.status ≠ lastOf s.status → ∃ op, cycleOpcode s = some op ∧ mayRecord s.cfg op) ∧
    (t.echo ≠ s.echo → ∃ op, cycleOpcode s = some op ∧ selField op = false ∧ codeField op = s.cfg.opcTecho) ∧
    (cycleOpcode s = none → t.status = s.status ∧ t.echo = s.echo)

/-- For every opcode but 0xFF and 0x7F, the opcode and the opcode with bit 7 inverted are dispatched identically but for the
raw value that the echo and the unrecognized warning show (and the raw opcode in flight while INIT waits): same refusal, same
STATUS, ECHO, HAL calls and output events, and bit 7 is not stored in STATUS (30_encoding.md R60; 41_dispatch.md R95). -/
def Obligations.WarningBitNeverSelectsBehaviour : Prop :=
  ∀ (s : State) (op : Opcode), op ≠ 0xFF → op ≠ 0x7F →
    (∀ r, exec (decodeOpcode s.cfg op) s = .refused r ↔ exec (decodeOpcode s.cfg (op ^^^ 0x80)) s = .refused r) ∧
    (∀ t, exec (decodeOpcode s.cfg op) s = .next t →
      wlOf t.status = wlOf s.status ∧
      ∃ t' es, exec (decodeOpcode s.cfg (op ^^^ 0x80)) s = .next t' ∧
        t'.status = t.status ∧ t'.echo = t.echo ∧ t'.rx = t.rx ∧ t'.hal = t.hal ∧ t'.draws = t.draws ∧
        t'.schedule = t.schedule ∧ t'.cfg = t.cfg ∧
        (t.control = .polling ∧ t'.control = .polling ∨
          t.control = .initPolling op ∧ t'.control = .initPolling (op ^^^ 0x80)) ∧
        t.trace = s.trace ++ es ∧ t'.trace = s.trace ++ es.map (reshow (op ^^^ 0x80)))

/-- STATUS steers nothing but QSTAT's report: of two states that differ in STATUS alone, every other instruction refuses
both alike or leaves states that differ in STATUS alone; QSTAT reports the byte as it stands and leaves it (10_state.md R14). -/
def Obligations.StatusSteersNothing : Prop :=
  (∀ (i : Instr) (s : State) (v : Byte), i ≠ .qstat false → i ≠ .qstat true →
    (∀ r, exec i s = .refused r → exec i { s with status := v } = .refused r) ∧
    (∀ t, exec i s = .next t → ∃ w, exec i { s with status := v } = .next { t with status := w })) ∧
  (∀ (s t : State) (wl : Bool), exec (.qstat wl) s = .next t →
    t.status = s.status ∧ t.trace.getLast? = some (.tx (.status s.status)))

/-- No dispatch reads or changes RX, the configuration or what is scheduled, and every dispatch ends at the top of the
polling loop or, for INIT and a check-24V as built, inside INIT's loop (41_dispatch.md R96; 20_memory.md R41). -/
def Obligations.DispatchReadsNoInputAndEnds : Prop :=
  ∀ (i : Instr) (s t : State), exec i s = .next t →
    t.rx = s.rx ∧ t.cfg = s.cfg ∧ t.schedule = s.schedule ∧
    (∀ pending, exec i { s with rx := pending } = .next { t with rx := pending }) ∧
    (t.control = .polling ∨
      (t.control = .initPolling (encodeOpcode s.cfg i) ∧
        (i = .init i.wlBit ∨ s.cfg.chk24vFallthrough = true ∧
          (i = .chk24v1 i.wlBit ∨ i = .chk24v2 i.wlBit ∨ i = .chk24v3 i.wlBit))))

/-- What the dispatch of each class may put on its ports besides the step-1 echo: the table of 41_dispatch.md R99. In
particular discrete writes come from SLEEP and wired selections only, lamp commands from WLON and WLOFF only. The rows of
CHK24V1-3 hold as R99 writes them with CHK24V_FALLTHROUGH false; with it true the as-built exception of 43_config.md R119
(decision D18, log 14, DESIGN CHOICE; the statement covers both settings) allows them Hal.init as well, CHK24V1 and 2 the check of slot 3, and CHK24V1
the check of slot 2 (U19, a free value). Which opcodes are echoed is decision D15 (log 17, DESIGN CHOICE, unsafe). -/
def Obligations.EachClassIssuesOnlyItsEvents : Prop :=
  ∀ (i : Instr) (s t : State), exec i s = .next t →
    ∃ es, t.trace = s.trace ++ echoEvents s (encodeOpcode s.cfg i) ++ es ∧ ∀ e ∈ es, mayIssue s.cfg i e = true

/-- The trace only grows, and no step changes the configuration (20_memory.md R38; 00_scope.md R5). -/
def Obligations.TraceOnlyGrowsAndConfigurationStays : Prop :=
  ∀ s t : State, step s = .next t → t.cfg = s.cfg ∧ ∃ es, t.trace = s.trace ++ es

/-- No step faults, and a step is refused only for a read-status opcode it dispatches or for host bytes beyond a finite
RX_CAP (60_exceptions.md R176; the refusals are the model's, logs 12, 13, 21). -/
def Obligations.NoFaultAndOnlyTwoRefusals : Prop :=
  (∀ (s : State) (f : Fault), step s ≠ .fault f) ∧
  (∀ (s : State) (r : Refusal), step s = .refused r →
    (r = .rxCapExceeded ∧ ∃ bytes moves cap, s.schedule = .hostSends bytes :: moves ∧ s.cfg.rxCap = some cap ∧
      cap < s.rx.length + bytes.length) ∨
    (∃ op, fetchedOpcode s = some op ∧ selField op = false ∧
      ∃ slot, r = .readStatusActionNotInSource slot ∧ 1 ≤ slot ∧ slot ≤ s.cfg.nslotRd ∧
        codeField op = s.cfg.rdstatCode slot))

/-- The decoder reads and writes neither STATUS nor ECHO and issues no write and no HAL call: a step that dispatches nothing
and is not in INIT's loop leaves them, does the same whatever they are, sends at most one error message, and, where the
core acts, only removes bytes from the head of RX (40_decoder.md R82). -/
def Obligations.DecoderTouchesNoState : Prop :=
  ∀ s t : State, step s = .next t → fetchedOpcode s = none → (∀ op, s.control ≠ .initPolling op) →
    t.status = s.status ∧ t.echo = s.echo ∧ t.hal = s.hal ∧ t.draws = s.draws ∧ t.cfg = s.cfg ∧
    (t.trace = s.trace ∨ t.trace = s.trace ++ [.tx .framingError] ∨ t.trace = s.trace ++ [.tx .notANumber]) ∧
    (∀ v e, step { s with status := v, echo := e } = .next { t with status := v, echo := e }) ∧
    (s.CoreActs → ∃ taken, s.rx = taken ++ t.rx)

/-- The properties the document states for the dispatcher, 41_dispatch.md R97 (a) to (e). In (b) the two asserted channels
are the selection's own; in (e) every event is a message, so there is no discrete write, no lamp command and no HAL call.
R97 leaves two things open that this fixes: in (b) the chain is written before the bus-select channel (decision D23, log 19,
DESIGN CHOICE, unsafe); in (d) a status query with bit 7 set is not echoed, so the report is the only event (decision D15,
log 17, DESIGN CHOICE, unsafe). -/
def Obligations.DispatcherProperties : Prop :=
  (∀ (s t : State) (op : Opcode), exec (decodeOpcode s.cfg op) s = .next t →
    (op = 0xFF ∨ op = 0x7F → lastOf t.status = lastOf s.status) ∧
    (op ≠ 0xFF → op ≠ 0x7F → wlOf t.status = wlOf s.status)) ∧
  (∀ (s : State) (op : Opcode), selField op = true → op ≠ 0xFF → op ≠ 0x7F →
    wired s.cfg (busField op) (idxField op) = true →
    ∃ t es chain bussel, selectionChannels s.cfg (busField op) (idxField op) = some (chain, bussel) ∧
      exec (decodeOpcode s.cfg op) s = .next t ∧
      t.trace = s.trace ++ echoEvents s op ++ es ∧
      es = [.dwrite false s.cfg.outSlot 0, .dwrite true s.cfg.outSlot chain, .dwrite true s.cfg.outSlot bussel] ∧
      lastOf t.status = op.extractLsb' 0 7) ∧
  (∀ (s t t' : State) (wl wl' : Bool), exec (.techo wl) s = .next t → exec (.techo wl') t = .next t' →
    t'.echo = s.echo) ∧
  (∀ (s t t' : State) (wl wl' : Bool), exec (.sleep wl) s = .next t → exec (.qstat wl') t = .next t' →
    ∃ v, t'.trace = t.trace ++ [.tx (.status v)] ∧ lastOf v = (formatC false s.cfg.opcSleep).extractLsb' 0 7 ∧
      wlOf v = wlOf s.status) ∧
  (∀ (s : State) (op : Opcode), selField op = false → codeField op ∉ s.cfg.enumeration →
    ∃ t es, exec (decodeOpcode s.cfg op) s = .next t ∧ t.status = s.status ∧ t.echo = s.echo ∧
      t.trace = s.trace ++ es ∧ ∀ e ∈ es, ∃ msg, e = .tx msg)

/-! ## The pin image and the lamp -/

/-- How one event moves the pin image: channel 0 commands every channel of its slot, another channel itself only, and no
other event commands a pin (45_output_sequencer.md R151, R153). -/
def Obligations.PinImageFollowsTheWrites : Prop :=
  ∀ (tr : List Event) (slot ch : Nat),
    pin [] slot ch = none ∧
    (∀ level, pin (tr ++ [.dwrite level slot 0]) slot ch = some level) ∧
    (∀ level, 1 ≤ ch → pin (tr ++ [.dwrite level slot ch]) slot ch = some level) ∧
    (∀ level slot' c, slot' ≠ slot ∨ (c ≠ 0 ∧ c ≠ ch) →
      pin (tr ++ [.dwrite level slot' c]) slot ch = pin tr slot ch) ∧
    (∀ e, (∀ level slot' c, e ≠ Event.dwrite level slot' c) → pin (tr ++ [e]) slot ch = pin tr slot ch)

/-- After SLEEP every channel of OUT_SLOT is commanded off; after a wired selection exactly its chain and its bus-select
channel are commanded on and every other channel off, whatever the image was before (45_output_sequencer.md R157). -/
def Obligations.PinsAfterSleepAndSelection : Prop :=
  (∀ (s t : State) (wl : Bool), exec (.sleep wl) s = .next t →
    ∀ ch, 1 ≤ ch → pin t.trace s.cfg.outSlot ch = some false) ∧
  (∀ (s t : State) (i : Instr) (bus : BusField) (idx : IdxField) (chain bussel : Nat), s.cfg.ChannelsOk →
    i.selection? = some (bus, idx) → selectionChannels s.cfg bus idx = some (chain, bussel) → exec i s = .next t →
    ∀ ch, 1 ≤ ch → pin t.trace s.cfg.outSlot ch = some (decide (ch = chain ∨ ch = bussel)))

/-- Every step keeps the pin image of OUT_SLOT unknown, all off, or with exactly the two channels of one wired selection on
(45_output_sequencer.md R157). -/
def Obligations.StepKeepsThePinImage : Prop :=
  ∀ s t : State, s.cfg.ChannelsOk → s.PinsOk → step s = .next t → t.cfg.ChannelsOk ∧ t.PinsOk

/-- In such an image at most one bus-select channel is on, and at most one channel beside the bus-select channels: the two
antenna buses are mutually exclusive (45_output_sequencer.md R157). -/
def Obligations.AtMostOneBusAndOneChainOn : Prop :=
  ∀ s : State, s.cfg.ChannelsOk → s.PinsOk →
    ¬ (pin s.trace s.cfg.outSlot s.cfg.chBusselEms = some true ∧ pin s.trace s.cfg.outSlot s.cfg.chBusselDfs = some true) ∧
    ∀ a b, 1 ≤ a → 1 ≤ b → pin s.trace s.cfg.outSlot a = some true → pin s.trace s.cfg.outSlot b = some true →
      a ≠ s.cfg.chBusselEms → a ≠ s.cfg.chBusselDfs → b ≠ s.cfg.chBusselEms → b ≠ s.cfg.chBusselDfs → a = b

/-- Every step keeps the lamp command unknown or equal to STATUS[7] (45_output_sequencer.md R154). -/
def Obligations.StepKeepsLampAndStatusTogether : Prop :=
  ∀ s t : State, s.LampOk → step s = .next t → t.LampOk

/-! ## Invariants of the control path, and reset -/

/-- Every step keeps the configuration allowed, a waiting read's LINEBUF short and without LF, an opcode in flight inside
INIT's loop INIT's own (or a check-24V's as built), and RX within a finite RX_CAP (40_decoder.md R71; 43_config.md R113,
R119; 70_reset_and_hazards.md R194). -/
def Obligations.StepKeepsControlAndBuffers : Prop :=
  ∀ s t : State, s.cfg.WF → s.ControlOk → s.RxOk → step s = .next t → t.cfg.WF ∧ t.ControlOk ∧ t.RxOk

/-- The invariants hold after power-up under every allowed configuration, the default one is allowed, and reset is power-up
under it. -/
def Obligations.PowerUpMeetsTheInvariants : Prop :=
  (∀ cfg : Config, cfg.WF → (State.powerUp cfg).cfg.WF ∧ (State.powerUp cfg).ControlOk ∧ (State.powerUp cfg).RxOk ∧
    (State.powerUp cfg).PinsOk ∧ (State.powerUp cfg).LampOk) ∧
  Config.default.WF ∧ State.reset = State.powerUp Config.default

/-- After reset ECHO is false (10_state.md R22). -/
def Obligations.EchoStartsFalse : Prop :=
  State.reset.echo = false ∧ ∀ cfg : Config, (State.powerUp cfg).echo = false

/-- Power-up: STATUS is STATUS_RESET (0x00 by default, decision D8, log 5), ECHO is false, the control path is at the top of
the polling loop, no output was issued and every pin and the lamp command are unknown (70_reset_and_hazards.md R181, R182).
RX is taken empty (log 23). -/
def Obligations.PowerUpState : Prop :=
  State.reset.status = 0x00 ∧ State.reset.rx = [] ∧
  ∀ cfg : Config, (State.powerUp cfg).status = cfg.statusReset ∧ (State.powerUp cfg).echo = false ∧
    (State.powerUp cfg).rx = [] ∧ (State.powerUp cfg).control = .polling ∧ (State.powerUp cfg).trace = [] ∧
    (∀ slot ch, pin (State.powerUp cfg).trace slot ch = none) ∧ wlcmd (State.powerUp cfg).trace = none

/-! ## The transmit stream -/

/-- The default rendering of QSTAT's report is itself a command line: decoded, it is the STATUS byte again
(92_eei_decisions.md D16; log 18). -/
def Obligations.RenderedStatusIsACommandLine : Prop :=
  ∀ (v : Byte) (rest : List Byte), decodeBytes (defaultRender (.status v) ++ rest) = .ok (v, rest)
end

