-- ==== Sys2Proof/Laws/Decode.lean ====
section
/-! SUPPORT. Lemmas of the decoder: the fields of the two formats, the read phase and the digit run. -/

namespace Sys2Proof

/-! ## Fields -/

theorem wlField_formatC (wl : Bool) (code : Code) : wlField (formatC wl code) = wl := by
  revert wl code; decide

theorem selField_formatC (wl : Bool) (code : Code) : selField (formatC wl code) = false := by
  revert wl code; decide

theorem codeField_formatC (wl : Bool) (code : Code) : codeField (formatC wl code) = code := by
  revert wl code; decide

theorem wlField_formatS (wl : Bool) (bus : BusField) (idx : IdxField) : wlField (formatS wl bus idx) = wl := by
  revert wl bus idx; decide

theorem selField_formatS (wl : Bool) (bus : BusField) (idx : IdxField) : selField (formatS wl bus idx) = true := by
  revert wl bus idx; decide

theorem busField_formatS (wl : Bool) (bus : BusField) (idx : IdxField) : busField (formatS wl bus idx) = bus := by
  revert wl bus idx; decide

theorem idxField_formatS (wl : Bool) (bus : BusField) (idx : IdxField) : idxField (formatS wl bus idx) = idx := by
  revert wl bus idx; decide

/-- Masking bit 7 away leaves the layout bit and the fields (41_dispatch.md R92). -/
theorem fields_maskOpcode (op : Opcode) :
    selField (maskOpcode op) = selField op ∧ codeField (maskOpcode op) = codeField op ∧
      busField (maskOpcode op) = busField op ∧ idxField (maskOpcode op) = idxField op := by
  revert op; decide

/-- An opcode with bit 6 clear is the format-C opcode of its fields (30_encoding.md R54). -/
theorem formatC_fields (op : Opcode) (h : selField op = false) : formatC (wlField op) (codeField op) = op := by
  revert op; decide

/-- An opcode with bit 6 set is the format-S opcode of its fields (30_encoding.md R53). -/
theorem formatS_fields (op : Opcode) (h : selField op = true) :
    formatS (wlField op) (busField op) (idxField op) = op := by
  revert op; decide

/-! ## Classification -/

/-- A format-C opcode is matched against the enumeration by its code (41_dispatch.md R93). -/
theorem decodeOpcode_formatC (cfg : Config) (wl : Bool) (code : Code) :
    decodeOpcode cfg (formatC wl code) = decodeConfig cfg wl code := by
  have h0 : formatC wl code ≠ 0xFF := by revert wl code; decide
  have h1 : formatC wl code ≠ 0x7F := by revert wl code; decide
  obtain ⟨a, b, -, -⟩ := fields_maskOpcode (formatC wl code)
  rw [decodeOpcode, if_neg h0, if_neg h1, a, b, selField_formatC, codeField_formatC, wlField_formatC]
  rfl

/-- A format-S opcode that is neither warning-light pattern is the selection of its fields (41_dispatch.md R94). -/
theorem decodeOpcode_formatS (cfg : Config) (wl : Bool) (bus : BusField) (idx : IdxField) (h : (bus, idx) ≠ (3, 15)) :
    decodeOpcode cfg (formatS wl bus idx) = decodeSelect wl bus idx := by
  have h0 : formatS wl bus idx ≠ 0xFF := by revert wl bus idx; decide
  have h1 : formatS wl bus idx ≠ 0x7F := by revert wl bus idx; decide
  obtain ⟨a, -, b, c⟩ := fields_maskOpcode (formatS wl bus idx)
  rw [decodeOpcode, if_neg h0, if_neg h1, a, b, c, selField_formatS, busField_formatS, idxField_formatS,
    wlField_formatS]
  rfl

/-- Every opcode is one of the two patterns, a format-C opcode, or a format-S opcode other than the patterns
(30_encoding.md R56). -/
theorem opcode_cases (op : Opcode) :
    op = 0xFF ∨ op = 0x7F ∨ (∃ wl code, op = formatC wl code) ∨
      ∃ wl bus idx, (bus, idx) ≠ ((3, 15) : BusField × IdxField) ∧ op = formatS wl bus idx := by
  by_cases h0 : op = 0xFF
  · exact .inl h0
  by_cases h1 : op = 0x7F
  · exact .inr (.inl h1)
  cases hs : selField op with
  | false => exact .inr (.inr (.inl ⟨_, _, (formatC_fields op hs).symm⟩))
  | true =>
    refine .inr (.inr (.inr ⟨_, _, _, ?_, (formatS_fields op hs).symm⟩))
    revert op; decide

/-- The code of a slot that exists is listed at the slot's place (00_scope.md R5). -/
theorem getElem_opcRdstat {cfg : Config} {slot : Nat} (h1 : 1 ≤ slot) (h : slot ≤ cfg.nslotRd) :
    cfg.opcRdstat[slot - 1]? = some (cfg.rdstatCode slot) := by
  have hlt : slot - 1 < cfg.opcRdstat.length := by unfold Config.nslotRd at h; omega
  simp [Config.rdstatCode, hlt]

/-- The listed codes are the codes of the slots 1 to `NSLOT_RD` (00_scope.md R5). -/
theorem mem_opcRdstat (cfg : Config) (code : Code) :
    code ∈ cfg.opcRdstat ↔ ∃ slot, 1 ≤ slot ∧ slot ≤ cfg.nslotRd ∧ code = cfg.rdstatCode slot := by
  constructor
  · intro h
    obtain ⟨k, hk, rfl⟩ := List.getElem_of_mem h
    exact ⟨k + 1, by omega, hk, by simp [Config.rdstatCode, hk]⟩
  · rintro ⟨slot, h1, h, rfl⟩
    exact List.mem_of_getElem? (getElem_opcRdstat h1 h)

/-- Matching a code against the read-status codes finds the slot whose code it is, or none (30_encoding.md R57, R59). -/
theorem decodeReadStatus_cases (cfg : Config) (wl : Bool) (code : Code) :
    ((1 ≤ cfg.nslotRd ∧ code = cfg.rdstatCode 1) ∧ decodeReadStatus cfg wl code = .rdstat1 wl) ∨
      ((2 ≤ cfg.nslotRd ∧ code = cfg.rdstatCode 2) ∧ decodeReadStatus cfg wl code = .rdstat2 wl) ∨
      ((3 ≤ cfg.nslotRd ∧ code = cfg.rdstatCode 3) ∧ decodeReadStatus cfg wl code = .rdstat3 wl) ∨
      (∃ slot, (4 ≤ slot ∧ slot ≤ cfg.nslotRd ∧ code = cfg.rdstatCode slot) ∧
        decodeReadStatus cfg wl code = .rdstatFurther wl slot) ∨
      (code ∉ cfg.opcRdstat ∧ decodeReadStatus cfg wl code = .unrec wl code) := by
  have found : ∀ k, cfg.opcRdstat.idxOf? code = some k → k + 1 ≤ cfg.nslotRd ∧ code = cfg.rdstatCode (k + 1) := by
    intro k hk
    obtain ⟨hlt, he, -⟩ := List.idxOf?_eq_some_iff.1 hk
    exact ⟨hlt, by simpa [Config.rdstatCode, hlt] using he.symm⟩
  unfold decodeReadStatus
  match h : cfg.opcRdstat.idxOf? code with
  | some 0 => exact .inl ⟨found 0 h, rfl⟩
  | some 1 => exact .inr (.inl ⟨found 1 h, rfl⟩)
  | some 2 => exact .inr (.inr (.inl ⟨found 2 h, rfl⟩))
  | some (k + 3) => exact .inr (.inr (.inr (.inl ⟨k + 4, ⟨by omega, found (k + 3) h⟩, rfl⟩)))
  | none => exact .inr (.inr (.inr (.inr ⟨List.idxOf?_eq_none_iff.1 h, rfl⟩)))

/-- Where all codes are distinct, the code of a slot that exists is matched to that slot (00_scope.md R5). -/
theorem idxOf?_rdstatCode {cfg : Config} (h : cfg.opcRdstat.Nodup) {slot : Nat} (h1 : 1 ≤ slot) (hs : slot ≤ cfg.nslotRd) :
    cfg.opcRdstat.idxOf? (cfg.rdstatCode slot) = some (slot - 1) := by
  have hlt : slot - 1 < cfg.opcRdstat.length := by unfold Config.nslotRd at hs; omega
  have he : cfg.rdstatCode slot = cfg.opcRdstat[slot - 1] := by simp [Config.rdstatCode, hlt]
  rw [List.idxOf?_eq_some_iff]
  refine ⟨hlt, he.symm, fun j hj heq => ?_⟩
  have := (List.Nodup.getElem_inj_iff h).1 (heq.trans he)
  omega

/-- Matching a code against the enumeration finds the command whose code it is, or no member (41_dispatch.md R93, R95). -/
theorem decodeConfig_cases (cfg : Config) (wl : Bool) (code : Code) :
    (code = cfg.opcSleep ∧ decodeConfig cfg wl code = .sleep wl) ∨
      (code = cfg.opcTecho ∧ decodeConfig cfg wl code = .techo wl) ∨
      (code = cfg.opcFwver ∧ decodeConfig cfg wl code = .fwver wl) ∨
      (code = cfg.opcBaseact ∧ decodeConfig cfg wl code = .baseact wl) ∨
      (code = cfg.opcPrmod ∧ decodeConfig cfg wl code = .prmod wl) ∨
      (code = cfg.opcChk24v1 ∧ decodeConfig cfg wl code = .chk24v1 wl) ∨
      (code = cfg.opcChk24v2 ∧ decodeConfig cfg wl code = .chk24v2 wl) ∨
      (code = cfg.opcChk24v3 ∧ decodeConfig cfg wl code = .chk24v3 wl) ∨
      (code = cfg.opcInit ∧ decodeConfig cfg wl code = .init wl) ∨
      (code = cfg.opcDisable ∧ decodeConfig cfg wl code = .disable wl) ∨
      (code = cfg.opcQstat ∧ decodeConfig cfg wl code = .qstat wl) ∨
      ((1 ≤ cfg.nslotRd ∧ code = cfg.rdstatCode 1) ∧ decodeConfig cfg wl code = .rdstat1 wl) ∨
      ((2 ≤ cfg.nslotRd ∧ code = cfg.rdstatCode 2) ∧ decodeConfig cfg wl code = .rdstat2 wl) ∨
      ((3 ≤ cfg.nslotRd ∧ code = cfg.rdstatCode 3) ∧ decodeConfig cfg wl code = .rdstat3 wl) ∨
      (∃ slot, (4 ≤ slot ∧ slot ≤ cfg.nslotRd ∧ code = cfg.rdstatCode slot) ∧
        decodeConfig cfg wl code = .rdstatFurther wl slot) ∨
      (code ∉ cfg.enumeration ∧ decodeConfig cfg wl code = .unrec wl code) := by
  unfold decodeConfig
  by_cases h0 : code = cfg.opcSleep
  · exact .inl ⟨h0, if_pos h0⟩
  refine .inr ?_
  simp only [if_neg h0]
  by_cases h1 : code = cfg.opcTecho
  · exact .inl ⟨h1, if_pos h1⟩
  refine .inr ?_
  simp only [if_neg h1]
  by_cases h2 : code = cfg.opcFwver
  · exact .inl ⟨h2, if_pos h2⟩
  refine .inr ?_
  simp only [if_neg h2]
  by_cases h3 : code = cfg.opcBaseact
  · exact .inl ⟨h3, if_pos h3⟩
  refine .inr ?_
  simp only [if_neg h3]
  by_cases h4 : code = cfg.opcPrmod
  · exact .inl ⟨h4, if_pos h4⟩
  refine .inr ?_
  simp only [if_neg h4]
  by_cases h5 : code = cfg.opcChk24v1
  · exact .inl ⟨h5, if_pos h5⟩
  refine .inr ?_
  simp only [if_neg h5]
  by_cases h6 : code = cfg.opcChk24v2
  · exact .inl ⟨h6, if_pos h6⟩
  refine .inr ?_
  simp only [if_neg h6]
  by_cases h7 : code = cfg.opcChk24v3
  · exact .inl ⟨h7, if_pos h7⟩
  refine .inr ?_
  simp only [if_neg h7]
  by_cases h8 : code = cfg.opcInit
  · exact .inl ⟨h8, if_pos h8⟩
  refine .inr ?_
  simp only [if_neg h8]
  by_cases h9 : code = cfg.opcDisable
  · exact .inl ⟨h9, if_pos h9⟩
  refine .inr ?_
  simp only [if_neg h9]
  by_cases h10 : code = cfg.opcQstat
  · exact .inl ⟨h10, if_pos h10⟩
  refine .inr ?_
  simp only [if_neg h10]
  rcases decodeReadStatus_cases cfg wl code with h11 | h12 | h13 | h14 | ⟨hn, he⟩
  · exact .inl h11
  · exact .inr (.inl h12)
  · exact .inr (.inr (.inl h13))
  · exact .inr (.inr (.inr (.inl h14)))
  · refine .inr (.inr (.inr (.inr ⟨?_, he⟩)))
    simp only [Config.enumeration, List.mem_append, List.mem_cons, List.not_mem_nil, or_false, not_or]
    exact ⟨⟨h0, h1, h2, h3, h4, h5, h6, h7, h8, h9, h10⟩, hn⟩

/-! ## The read phase -/

/-- What a read that still waits has read: fewer than N_LINE bytes without LF go to LINEBUF (40_decoder.md R71). -/
theorem readLine_append (pre pending : List Byte) (line : List Byte) (hlen : line.length + pre.length < nLine)
    (hlf : asciiLf ∉ pre) : readLine line (pre ++ pending) = readLine (line ++ pre) pending := by
  induction pre generalizing line with
  | nil => simp
  | cons b bs ih =>
    simp only [List.mem_cons, not_or, List.length_cons] at hlf hlen
    have hb : b ≠ asciiLf := fun h => hlf.1 h.symm
    simp only [List.cons_append, readLine, if_neg hb]
    rw [if_neg (by omega), ih _ (by simp; omega) hlf.2, List.append_assoc, List.singleton_append]

/-- A read completes at the first LF among its bytes (40_decoder.md R72). -/
theorem readLine_complete (pre rest line : List Byte) (hlen : line.length + pre.length < nLine) (hlf : asciiLf ∉ pre) :
    readLine line (pre ++ asciiLf :: rest) = .complete (line ++ pre ++ [asciiLf]) rest := by
  rw [readLine_append _ _ _ hlen hlf]
  simp [readLine]

/-- N_LINE bytes without LF fill LINEBUF (40_decoder.md R73). -/
theorem readLine_full (pre rest line : List Byte) (hlen : line.length + pre.length = nLine) (hpre : pre ≠ [])
    (hlf : asciiLf ∉ pre) : readLine line (pre ++ rest) = .full rest := by
  obtain ⟨front, b, rfl⟩ := List.eq_nil_or_concat pre |>.resolve_left hpre
  simp only [List.mem_append, List.mem_singleton, not_or, List.length_append, List.length_cons,
    List.length_nil, List.concat_eq_append] at hlf hlen ⊢
  rw [List.append_assoc, readLine_append _ _ _ (by omega) hlf.1]
  have hb : b ≠ asciiLf := fun h => hlf.2 h.symm
  simp only [List.singleton_append, readLine, if_neg hb]
  rw [if_pos (by simp; omega)]

/-- Fewer than N_LINE bytes without LF leave the read waiting (40_decoder.md R71, R78). -/
theorem readLine_starved (pre line : List Byte) (hlen : line.length + pre.length < nLine) (hlf : asciiLf ∉ pre) :
    readLine line pre = .starved (line ++ pre) := by
  have h := readLine_append pre [] line hlen hlf
  simpa [readLine] using h

/-- Every way a read phase can stand, with what it read (40_decoder.md R71 to R73, R80). -/
theorem readLine_cases (line pending : List Byte) (hlen : line.length < nLine) (hlf : asciiLf ∉ line) :
    (∃ pre rest, pending = pre ++ asciiLf :: rest ∧ asciiLf ∉ pre ∧ line.length + pre.length < nLine ∧
        readLine line pending = .complete (line ++ pre ++ [asciiLf]) rest) ∨
      (∃ pre rest, pending = pre ++ rest ∧ asciiLf ∉ pre ∧ line.length + pre.length = nLine ∧
        readLine line pending = .full rest) ∨
      (asciiLf ∉ pending ∧ line.length + pending.length < nLine ∧
        readLine line pending = .starved (line ++ pending)) := by
  induction pending generalizing line with
  | nil => exact .inr (.inr ⟨by simp, by simpa using hlen, by simp [readLine]⟩)
  | cons b bs ih =>
    by_cases hb : b = asciiLf
    · exact .inl ⟨[], bs, by simp [hb], by simp, by simpa using hlen, by simp [readLine, hb]⟩
    by_cases hfull : nLine ≤ line.length + 1
    · refine .inr (.inl ⟨[b], bs, by simp, ?_, ?_, by simp [readLine, hb, hfull]⟩)
      · simpa using fun h => hb h.symm
      · simp; omega
    · have hstep : readLine line (b :: bs) = readLine (line ++ [b]) bs := by simp [readLine, hb, hfull]
      have hb' : asciiLf ∉ line ++ [b] := by
        simp only [List.mem_append, List.mem_singleton, not_or]
        exact ⟨hlf, fun h => hb h.symm⟩
      rcases ih (line ++ [b]) (by simp; omega) hb' with
        ⟨pre, rest, h1, h2, h3, h4⟩ | ⟨pre, rest, h1, h2, h3, h4⟩ | ⟨h1, h2, h3⟩
      · refine .inl ⟨b :: pre, rest, by simp [h1], ?_, ?_, by rw [hstep, h4]; simp⟩
        · simp only [List.mem_cons, not_or]; exact ⟨fun h => hb h.symm, h2⟩
        · simp at h3 ⊢; omega
      · refine .inr (.inl ⟨b :: pre, rest, by simp [h1], ?_, ?_, by rw [hstep, h4]⟩)
        · simp only [List.mem_cons, not_or]; exact ⟨fun h => hb h.symm, h2⟩
        · simp at h3 ⊢; omega
      · refine .inr (.inr ⟨?_, ?_, by rw [hstep, h3]; simp⟩)
        · simp only [List.mem_cons, not_or]; exact ⟨fun h => hb h.symm, h1⟩
        · simp at h2 ⊢; omega

/-! ## The digit run -/

/-- A digit character continues the run (40_decoder.md R74). -/
theorem parseBinFrom_digit (v n : Nat) (d : Bool) (rest : List Byte) :
    parseBinFrom v n (digitByte d :: rest) = parseBinFrom (2 * v + d.toNat) (n + 1) rest := by
  cases d <;> simp [parseBinFrom, digitByte, asciiZero, asciiOne]

/-- Any other byte ends it, and so does the end of the line (40_decoder.md R74, R77). -/
theorem parseBinFrom_stop (v n : Nat) (tail : List Byte) (h0 : tail.head? ≠ some asciiZero)
    (h1 : tail.head? ≠ some asciiOne) : parseBinFrom v n tail = (v, n) := by
  cases tail with
  | nil => rfl
  | cons b rest =>
    simp only [List.head?_cons, ne_eq, Option.some.injEq] at h0 h1
    simp [parseBinFrom, h0, h1]

/-- The value and length of a digit run (30_encoding.md R51). -/
theorem parseBinFrom_digits (v n : Nat) (digits : List Bool) (tail : List Byte) (h0 : tail.head? ≠ some asciiZero)
    (h1 : tail.head? ≠ some asciiOne) :
    parseBinFrom v n (digits.map digitByte ++ tail) =
      (digits.foldl (fun acc d => 2 * acc + d.toNat) v, n + digits.length) := by
  induction digits generalizing v n with
  | nil => simpa using parseBinFrom_stop v n tail h0 h1
  | cons d ds ih =>
    simp only [List.map_cons, List.cons_append, parseBinFrom_digit, ih, List.foldl_cons, List.length_cons]
    congr 1
    omega

/-- A digit character is no LF. -/
theorem digitByte_ne_lf (d : Bool) : digitByte d ≠ asciiLf := by
  cases d <;> decide

/-- The canonical line of an opcode is eight digits, CR and LF (30_encoding.md R50). -/
theorem lineOf_eq (op : Opcode) :
    lineOf op = ([7, 6, 5, 4, 3, 2, 1, 0].map fun k => digitByte (op.getLsbD k)) ++ [asciiCr, asciiLf] := rfl

/-- The canonical line parses to its opcode (30_encoding.md R50, R51). -/
theorem parseLine_lineOf (op : Opcode) : parseLine (lineOf op) = some op := by
  revert op; decide

end Sys2Proof
end

