-- ==== Sys2Proof/Laws/State.lean ====
section
/-! SUPPORT. One lemma per field of State per state update, true by rfl, so that no proof unfolds a record update. -/

namespace Sys2Proof.Machine

variable (s : State)

@[simp] theorem State.emit_cfg (es : List Event) : (s.emit es).cfg = s.cfg := rfl
@[simp] theorem State.emit_status (es : List Event) : (s.emit es).status = s.status := rfl
@[simp] theorem State.emit_echo (es : List Event) : (s.emit es).echo = s.echo := rfl
@[simp] theorem State.emit_rx (es : List Event) : (s.emit es).rx = s.rx := rfl
@[simp] theorem State.emit_control (es : List Event) : (s.emit es).control = s.control := rfl
@[simp] theorem State.emit_trace (es : List Event) : (s.emit es).trace = s.trace ++ es := rfl
@[simp] theorem State.emit_hal (es : List Event) : (s.emit es).hal = s.hal := rfl
@[simp] theorem State.emit_draws (es : List Event) : (s.emit es).draws = s.draws := rfl
@[simp] theorem State.emit_schedule (es : List Event) : (s.emit es).schedule = s.schedule := rfl

@[simp] theorem State.putStatus_cfg (v : Byte) : (s.putStatus v).cfg = s.cfg := rfl
@[simp] theorem State.putStatus_status (v : Byte) : (s.putStatus v).status = v := rfl
@[simp] theorem State.putStatus_echo (v : Byte) : (s.putStatus v).echo = s.echo := rfl
@[simp] theorem State.putStatus_rx (v : Byte) : (s.putStatus v).rx = s.rx := rfl
@[simp] theorem State.putStatus_control (v : Byte) : (s.putStatus v).control = s.control := rfl
@[simp] theorem State.putStatus_trace (v : Byte) : (s.putStatus v).trace = s.trace := rfl
@[simp] theorem State.putStatus_hal (v : Byte) : (s.putStatus v).hal = s.hal := rfl
@[simp] theorem State.putStatus_draws (v : Byte) : (s.putStatus v).draws = s.draws := rfl
@[simp] theorem State.putStatus_schedule (v : Byte) : (s.putStatus v).schedule = s.schedule := rfl

@[simp] theorem State.putEcho_cfg (v : Bool) : (s.putEcho v).cfg = s.cfg := rfl
@[simp] theorem State.putEcho_status (v : Bool) : (s.putEcho v).status = s.status := rfl
@[simp] theorem State.putEcho_echo (v : Bool) : (s.putEcho v).echo = v := rfl
@[simp] theorem State.putEcho_rx (v : Bool) : (s.putEcho v).rx = s.rx := rfl
@[simp] theorem State.putEcho_control (v : Bool) : (s.putEcho v).control = s.control := rfl
@[simp] theorem State.putEcho_trace (v : Bool) : (s.putEcho v).trace = s.trace := rfl
@[simp] theorem State.putEcho_hal (v : Bool) : (s.putEcho v).hal = s.hal := rfl
@[simp] theorem State.putEcho_draws (v : Bool) : (s.putEcho v).draws = s.draws := rfl
@[simp] theorem State.putEcho_schedule (v : Bool) : (s.putEcho v).schedule = s.schedule := rfl

@[simp] theorem State.putControl_cfg (c : Control) : (s.putControl c).cfg = s.cfg := rfl
@[simp] theorem State.putControl_status (c : Control) : (s.putControl c).status = s.status := rfl
@[simp] theorem State.putControl_echo (c : Control) : (s.putControl c).echo = s.echo := rfl
@[simp] theorem State.putControl_rx (c : Control) : (s.putControl c).rx = s.rx := rfl
@[simp] theorem State.putControl_control (c : Control) : (s.putControl c).control = c := rfl
@[simp] theorem State.putControl_trace (c : Control) : (s.putControl c).trace = s.trace := rfl
@[simp] theorem State.putControl_hal (c : Control) : (s.putControl c).hal = s.hal := rfl
@[simp] theorem State.putControl_draws (c : Control) : (s.putControl c).draws = s.draws := rfl
@[simp] theorem State.putControl_schedule (c : Control) : (s.putControl c).schedule = s.schedule := rfl

@[simp] theorem State.putRx_cfg (bytes : List Byte) : (s.putRx bytes).cfg = s.cfg := rfl
@[simp] theorem State.putRx_status (bytes : List Byte) : (s.putRx bytes).status = s.status := rfl
@[simp] theorem State.putRx_echo (bytes : List Byte) : (s.putRx bytes).echo = s.echo := rfl
@[simp] theorem State.putRx_rx (bytes : List Byte) : (s.putRx bytes).rx = bytes := rfl
@[simp] theorem State.putRx_control (bytes : List Byte) : (s.putRx bytes).control = s.control := rfl
@[simp] theorem State.putRx_trace (bytes : List Byte) : (s.putRx bytes).trace = s.trace := rfl
@[simp] theorem State.putRx_hal (bytes : List Byte) : (s.putRx bytes).hal = s.hal := rfl
@[simp] theorem State.putRx_draws (bytes : List Byte) : (s.putRx bytes).draws = s.draws := rfl
@[simp] theorem State.putRx_schedule (bytes : List Byte) : (s.putRx bytes).schedule = s.schedule := rfl

@[simp] theorem State.putSchedule_cfg (moves : List Move) : (s.putSchedule moves).cfg = s.cfg := rfl
@[simp] theorem State.putSchedule_status (moves : List Move) : (s.putSchedule moves).status = s.status := rfl
@[simp] theorem State.putSchedule_echo (moves : List Move) : (s.putSchedule moves).echo = s.echo := rfl
@[simp] theorem State.putSchedule_rx (moves : List Move) : (s.putSchedule moves).rx = s.rx := rfl
@[simp] theorem State.putSchedule_control (moves : List Move) : (s.putSchedule moves).control = s.control := rfl
@[simp] theorem State.putSchedule_trace (moves : List Move) : (s.putSchedule moves).trace = s.trace := rfl
@[simp] theorem State.putSchedule_hal (moves : List Move) : (s.putSchedule moves).hal = s.hal := rfl
@[simp] theorem State.putSchedule_draws (moves : List Move) : (s.putSchedule moves).draws = s.draws := rfl
@[simp] theorem State.putSchedule_schedule (moves : List Move) : (s.putSchedule moves).schedule = moves := rfl

@[simp] theorem State.putDrawn_cfg (left : HalAnswers) : (s.putDrawn left).cfg = s.cfg := rfl
@[simp] theorem State.putDrawn_status (left : HalAnswers) : (s.putDrawn left).status = s.status := rfl
@[simp] theorem State.putDrawn_echo (left : HalAnswers) : (s.putDrawn left).echo = s.echo := rfl
@[simp] theorem State.putDrawn_rx (left : HalAnswers) : (s.putDrawn left).rx = s.rx := rfl
@[simp] theorem State.putDrawn_control (left : HalAnswers) : (s.putDrawn left).control = s.control := rfl
@[simp] theorem State.putDrawn_trace (left : HalAnswers) : (s.putDrawn left).trace = s.trace := rfl
@[simp] theorem State.putDrawn_hal (left : HalAnswers) : (s.putDrawn left).hal = left := rfl
@[simp] theorem State.putDrawn_draws (left : HalAnswers) : (s.putDrawn left).draws = s.draws + 1 := rfl
@[simp] theorem State.putDrawn_schedule (left : HalAnswers) : (s.putDrawn left).schedule = s.schedule := rfl

/-- Two emissions are one emission of both. -/
theorem State.emit_emit (es fs : List Event) : (s.emit es).emit fs = s.emit (es ++ fs) := by
  simp [State.emit, List.append_assoc]

/-- Emitting nothing changes nothing. -/
@[simp] theorem State.emit_nil : s.emit [] = s := by
  simp [State.emit]

end Sys2Proof.Machine
end

