-- ==== Sys2Proof/Laws/Ops.lean ====
section
/-! SUPPORT. What each shared operation does, said once: the provers cite these instead of unfolding the operation. -/

namespace Sys2Proof.Machine

variable (s : State)

/-! ## Fields the operations leave alone or change -/

theorem tx_eq (msg : Message) : tx msg s = s.emit [.tx msg] := rfl

theorem dwrite_eq (level : Bool) (slot channel : Nat) : dwrite level slot channel s = s.emit [.dwrite level slot channel] :=
  rfl

theorem warnLight_eq (level : Bool) : warnLight level s = s.emit [.warnLight level] := rfl

theorem deassertAll_eq : deassertAll s = s.emit [.dwrite false s.cfg.outSlot 0] := rfl

/-- The three writes of a selection, in order (44_selection.md R131). -/
theorem selectSeq_eq (chain bussel : Nat) :
    selectSeq chain bussel s =
      s.emit [.dwrite false s.cfg.outSlot 0, .dwrite true s.cfg.outSlot chain, .dwrite true s.cfg.outSlot bussel] := by
  simp [selectSeq, deassertAll, dwrite, State.emit_emit]

theorem halEnableBaseController_eq (enable : Bool) :
    halEnableBaseController enable s = s.emit [.halEnableBaseController enable] := rfl

theorem halInit_eq :
    halInit s = { s with trace := s.trace ++ [.halInit (nextInit s)], hal := { s.hal with init := s.hal.init.tail },
                         draws := s.draws + 1 } := rfl

theorem halIsBaseActive_eq :
    halIsBaseActive s = { s with trace := s.trace ++ [.halIsBaseActive (nextIsBaseActive s)],
                                 hal := { s.hal with isBaseActive := s.hal.isBaseActive.tail },
                                 draws := s.draws + 1 } := rfl

theorem halGetFwVersion_eq :
    halGetFwVersion s = { s with trace := s.trace ++ [.halGetFwVersion (nextFwVersion s)],
                                 hal := { s.hal with fwVersion := s.hal.fwVersion.tail }, draws := s.draws + 1 } := rfl

theorem halPrintModules_eq :
    halPrintModules s = { s with trace := s.trace ++ [.halPrintModules, .tx (.modules (nextModules s))],
                                 hal := { s.hal with modules := s.hal.modules.tail }, draws := s.draws + 1 } := rfl

theorem halCheck24V_eq (slot : Nat) :
    halCheck24V slot s = { s with trace := s.trace ++ [.halCheck24V slot (nextCheck24V s)],
                                  hal := { s.hal with check24V := s.hal.check24V.tail }, draws := s.draws + 1 } := rfl

theorem endCycle_eq : endCycle s = { s with control := .polling } := rfl

theorem rxDrain_eq : rxDrain s = { s with rx := [] } := rfl

/-- Taking an error performs its report and ends the cycle, nothing else (60_exceptions.md R166). -/
theorem takeError_eq (e : ScdError) :
    takeError e s = { s with trace := s.trace ++ errorReport e, control := .polling } := rfl

/-- Step 1 only appends to the trace. -/
theorem echoStep_eq (i : Instr) : echoStep i s = s.emit (echoEvents s (encodeOpcode s.cfg i)) := rfl

@[simp] theorem nextInit_emit (es : List Event) : nextInit (s.emit es) = nextInit s := rfl
@[simp] theorem nextIsBaseActive_emit (es : List Event) : nextIsBaseActive (s.emit es) = nextIsBaseActive s := rfl
@[simp] theorem nextFwVersion_emit (es : List Event) : nextFwVersion (s.emit es) = nextFwVersion s := rfl
@[simp] theorem nextModules_emit (es : List Event) : nextModules (s.emit es) = nextModules s := rfl
@[simp] theorem nextCheck24V_emit (es : List Event) : nextCheck24V (s.emit es) = nextCheck24V s := rfl

/-- The echo is empty or the one echo message of the raw opcode (41_dispatch.md R91). -/
theorem echoEvents_cases (op : Opcode) : echoEvents s op = [] ∨ echoEvents s op = [.tx (.echo op)] := by
  unfold echoEvents
  split <;> simp

/-- One round of INIT's loop, as the HAL answers (43_config.md R113). -/
theorem initRound_cases (op : Opcode) :
    (nextInit s = true ∧ initRound op s =
        { s with trace := s.trace ++ [.halInit true], hal := { s.hal with init := s.hal.init.tail },
                 draws := s.draws + 1, control := .polling,
                 status := recordLast (formatC false s.cfg.opcSleep) s.status }) ∨
      (nextInit s = false ∧ initRound op s =
        { s with trace := s.trace ++ [.halInit false], hal := { s.hal with init := s.hal.init.tail },
                 draws := s.draws + 1, control := .initPolling op }) := by
  cases h : nextInit s
  · right; simp [initRound, h, halInit_eq, State.putControl]
  · left; simp [initRound, h, halInit_eq, State.putControl, State.putStatus, endCycle]

/-- The host's append answers the longer queue or refuses by name (70_reset_and_hazards.md R194). -/
theorem hostSend_cases (bytes : List Byte) :
    (overCap s.cfg (s.rx ++ bytes).length = false ∧ hostSend bytes s = .next { s with rx := s.rx ++ bytes }) ∨
      (overCap s.cfg (s.rx ++ bytes).length = true ∧ hostSend bytes s = .refused .rxCapExceeded) := by
  cases h : overCap s.cfg (s.rx ++ bytes).length
  · left; exact ⟨rfl, by rw [hostSend, h]; rfl⟩
  · right; exact ⟨rfl, by rw [hostSend, h]; rfl⟩

/-! ## STATUS fields -/

/-- Recording an opcode keeps the light bit (10_state.md R13). -/
@[simp] theorem wlOf_recordLast (m : Opcode) (st : Byte) : wlOf (recordLast m st) = wlOf st := by
  simp [wlOf, recordLast, maskOpcode]

/-- Recording an opcode sets bits 6-0 to the opcode's (10_state.md R13). -/
@[simp] theorem lastOf_recordLast (m : Opcode) (st : Byte) : lastOf (recordLast m st) = m.extractLsb' 0 7 := by
  ext i hi
  simp only [lastOf, recordLast, maskOpcode, BitVec.getElem_extractLsb', Nat.zero_add, BitVec.getLsbD_or,
    BitVec.getLsbD_and]
  have h1 : (0x80#8).getLsbD i = false := by
    interval_cases i <;> rfl
  have h2 : (0x7F#8).getLsbD i = true := by
    interval_cases i <;> rfl
  simp [h1, h2]

/-- Driving the light sets bit 7 (42_warning_light.md R100, R101). -/
@[simp] theorem wlOf_setWl (level : Bool) (st : Byte) : wlOf (setWl level st) = level := by
  cases level <;> simp [wlOf, setWl]

/-- Driving the light keeps bits 6-0 (42_warning_light.md R100, R101). -/
@[simp] theorem lastOf_setWl (level : Bool) (st : Byte) : lastOf (setWl level st) = lastOf st := by
  ext i hi
  have h1 : (0x80#8).getLsbD i = false := by
    interval_cases i <;> rfl
  have h2 : (0x7F#8).getLsbD i = true := by
    interval_cases i <;> rfl
  cases level <;> simp [lastOf, setWl, h1, h2]

/-! ## Observations of a longer trace -/

/-- The pin image of a longer trace folds on from the image before (45_output_sequencer.md R153). -/
theorem pin_append (tr es : List Event) (slot ch : Nat) :
    pin (tr ++ es) slot ch = es.foldl (pinStep slot ch) (pin tr slot ch) := by
  simp [pin, List.foldl_append]

/-- The lamp command of a longer trace folds on from the one before (45_output_sequencer.md R154). -/
theorem wlcmd_append (tr es : List Event) : wlcmd (tr ++ es) = es.foldl wlcmdStep (wlcmd tr) := by
  simp [wlcmd, List.foldl_append]

/-- The step-1 echo is no output write. -/
theorem pinStep_echoEvents (op : Opcode) (slot ch : Nat) (old : Option Bool) :
    (echoEvents s op).foldl (pinStep slot ch) old = old := by
  rcases echoEvents_cases s op with h | h <;> simp [h, pinStep]

/-- The step-1 echo is no lamp command. -/
theorem wlcmdStep_echoEvents (op : Opcode) (old : Option Bool) : (echoEvents s op).foldl wlcmdStep old = old := by
  rcases echoEvents_cases s op with h | h <;> simp [h, wlcmdStep]

end Sys2Proof.Machine
end

