-- ==== Sys2Proof/Laws/Meanings.lean ====
section
/-! SUPPORT. What the shared parts of the meanings do: masking an encoded opcode, the echo of a selection, the as-built
checks of check-24V, and the one meaning behind every selection arm. -/

namespace Sys2Proof.Machine

/-- Masking clears bit 7 of a format-C opcode (41_dispatch.md R92). -/
@[simp] theorem maskOpcode_formatC (wl : Bool) (code : Code) : maskOpcode (formatC wl code) = formatC false code := by
  revert wl code
  decide +kernel

/-- Masking clears bit 7 of a format-S opcode (41_dispatch.md R92). -/
@[simp] theorem maskOpcode_formatS (wl : Bool) (bus : BusField) (idx : IdxField) :
    maskOpcode (formatS wl bus idx) = formatS false bus idx := by
  revert wl bus idx
  decide +kernel

/-- Recording a format-C opcode. -/
theorem recordLast_formatC (wl : Bool) (code : Code) (st : Byte) :
    recordLast (formatC wl code) st = (st &&& 0x80) ||| formatC false code := by
  rw [recordLast, maskOpcode_formatC]

/-- Recording a format-S opcode. -/
theorem recordLast_formatS (wl : Bool) (bus : BusField) (idx : IdxField) (st : Byte) :
    recordLast (formatS wl bus idx) st = (st &&& 0x80) ||| formatS false bus idx := by
  rw [recordLast, maskOpcode_formatS]

/-- An opcode with bit 6 set is echoed whenever ECHO is set: it is not the status query (41_dispatch.md R91). -/
theorem echoEvents_selField (s : State) (op : Opcode) (h : selField op = true) :
    echoEvents s op = if s.echo then [.tx (.echo op)] else [] := by
  have hm : maskOpcode op ≠ formatC false s.cfg.opcQstat := by
    intro he
    have hs := congrArg selField he
    rw [(fields_maskOpcode op).1, h, selField_formatC] at hs
    cases hs
  unfold echoEvents
  rw [decide_eq_true hm, Bool.and_true]

/-- The status query is not echoed, with bit 7 set or not (41_dispatch.md R91; D15). -/
theorem echoEvents_opcQstat (s : State) (wl : Bool) : echoEvents s (formatC wl s.cfg.opcQstat) = [] := by
  simp [echoEvents]

/-- Every selection arm is the one selection meaning on its (bus, idx), and encodes as that pair (44_selection.md R130). -/
theorem exec_selection {i : Instr} {bus : BusField} {idx : IdxField} (h : i.selection? = some (bus, idx)) (s : State) :
    exec i s = .next (selectInstr i bus idx s) ∧ encodeOpcode s.cfg i = formatS i.wlBit bus idx := by
  cases i <;> simp [Instr.selection?] at h <;> obtain ⟨rfl, rfl⟩ := h <;> exact ⟨rfl, rfl⟩

/-- One check-24V query leaves everything but the trace and the HAL's answers alone (43_config.md R110 to R112). -/
theorem halCheck24V_fields (slot : Nat) (s : State) :
    (halCheck24V slot s).cfg = s.cfg ∧ (halCheck24V slot s).rx = s.rx ∧ (halCheck24V slot s).schedule = s.schedule ∧
      (halCheck24V slot s).status = s.status ∧ (halCheck24V slot s).echo = s.echo ∧
      (halCheck24V slot s).control = s.control ∧
      (halCheck24V slot s).trace = s.trace ++ [.halCheck24V slot (nextCheck24V s)] :=
  ⟨rfl, rfl, rfl, rfl, rfl, rfl, rfl⟩

/-- The as-built checks leave everything but the trace and the HAL's answers alone, and query slot 2 after slot 1 only and
slot 3 after slots 1 and 2 only (43_config.md R119). -/
theorem fallthroughChecks_fields (slot : Nat) (s : State) :
    (fallthroughChecks slot s).cfg = s.cfg ∧ (fallthroughChecks slot s).rx = s.rx ∧
      (fallthroughChecks slot s).schedule = s.schedule ∧ (fallthroughChecks slot s).status = s.status ∧
      (fallthroughChecks slot s).echo = s.echo ∧
      ∃ es, (fallthroughChecks slot s).trace = s.trace ++ es ∧
        ∀ e ∈ es, ∃ other answer, e = Event.halCheck24V other answer ∧ (slot = 1 ∧ other = 2 ∨ slot < 3 ∧ other = 3) := by
  unfold fallthroughChecks
  by_cases h2 : slot = 1 ∧ Config.freeSlot2Check s.draws = true
  · have h3 : slot < 3 := by omega
    simp only [if_pos h2, if_pos h3]
    refine ⟨rfl, rfl, rfl, rfl, rfl,
      [.halCheck24V 2 (nextCheck24V s), .halCheck24V 3 (nextCheck24V (halCheck24V 2 s))], ?_, ?_⟩
    · simp [halCheck24V_eq]
    · simp [h2.1]
  · simp only [if_neg h2]
    by_cases h3 : slot < 3
    · rw [if_pos h3]
      exact ⟨rfl, rfl, rfl, rfl, rfl, [_], rfl, by simp [h3]⟩
    · rw [if_neg h3]
      exact ⟨rfl, rfl, rfl, rfl, rfl, [], by simp, by simp⟩

end Sys2Proof.Machine
end

