-- ==== Sys2Proof/Laws/PerInstr.lean ====
section
/-! SUPPORT. Statements made per instruction: where the layout bits of every instruction's opcode stand. -/

namespace Sys2Proof.Laws.Layout

/-- Under every configuration bit 7 of the opcode is the instruction's `wl`, and bit 6 is set exactly for the selections
and the two warning-light patterns (30_encoding.md R52 to R55). -/
def Statement (i : Instr) : Prop :=
  ∀ cfg : Config, wlField (encodeOpcode cfg i) = i.wlBit ∧
    selField (encodeOpcode cfg i) = (i.selection?.isSome || decide (i = .wlon) || decide (i = .wloff))

theorem wlon : Statement .wlon := fun _ => by simp [encodeOpcode, wlField, selField, Instr.wlBit, Instr.selection?]
theorem wloff : Statement .wloff := fun _ => by simp [encodeOpcode, wlField, selField, Instr.wlBit, Instr.selection?]
theorem sleep (wl : Bool) : Statement (.sleep wl) := fun cfg => ⟨wlField_formatC wl cfg.opcSleep, selField_formatC wl cfg.opcSleep⟩
theorem techo (wl : Bool) : Statement (.techo wl) := fun cfg => ⟨wlField_formatC wl cfg.opcTecho, selField_formatC wl cfg.opcTecho⟩
theorem fwver (wl : Bool) : Statement (.fwver wl) := fun cfg => ⟨wlField_formatC wl cfg.opcFwver, selField_formatC wl cfg.opcFwver⟩
theorem baseact (wl : Bool) : Statement (.baseact wl) := fun cfg => ⟨wlField_formatC wl cfg.opcBaseact, selField_formatC wl cfg.opcBaseact⟩
theorem prmod (wl : Bool) : Statement (.prmod wl) := fun cfg => ⟨wlField_formatC wl cfg.opcPrmod, selField_formatC wl cfg.opcPrmod⟩
theorem chk24v1 (wl : Bool) : Statement (.chk24v1 wl) := fun cfg => ⟨wlField_formatC wl cfg.opcChk24v1, selField_formatC wl cfg.opcChk24v1⟩
theorem chk24v2 (wl : Bool) : Statement (.chk24v2 wl) := fun cfg => ⟨wlField_formatC wl cfg.opcChk24v2, selField_formatC wl cfg.opcChk24v2⟩
theorem chk24v3 (wl : Bool) : Statement (.chk24v3 wl) := fun cfg => ⟨wlField_formatC wl cfg.opcChk24v3, selField_formatC wl cfg.opcChk24v3⟩
theorem init (wl : Bool) : Statement (.init wl) := fun cfg => ⟨wlField_formatC wl cfg.opcInit, selField_formatC wl cfg.opcInit⟩
theorem disable (wl : Bool) : Statement (.disable wl) := fun cfg => ⟨wlField_formatC wl cfg.opcDisable, selField_formatC wl cfg.opcDisable⟩
theorem qstat (wl : Bool) : Statement (.qstat wl) := fun cfg => ⟨wlField_formatC wl cfg.opcQstat, selField_formatC wl cfg.opcQstat⟩
theorem rdstat1 (wl : Bool) : Statement (.rdstat1 wl) :=
  fun cfg => ⟨wlField_formatC wl (cfg.rdstatCode 1), selField_formatC wl (cfg.rdstatCode 1)⟩
theorem rdstat2 (wl : Bool) : Statement (.rdstat2 wl) :=
  fun cfg => ⟨wlField_formatC wl (cfg.rdstatCode 2), selField_formatC wl (cfg.rdstatCode 2)⟩
theorem rdstat3 (wl : Bool) : Statement (.rdstat3 wl) :=
  fun cfg => ⟨wlField_formatC wl (cfg.rdstatCode 3), selField_formatC wl (cfg.rdstatCode 3)⟩
theorem rdstatFurther (wl : Bool) (slot : Nat) : Statement (.rdstatFurther wl slot) :=
  fun cfg => ⟨wlField_formatC wl (cfg.rdstatCode slot), selField_formatC wl (cfg.rdstatCode slot)⟩
theorem selEms1 (wl : Bool) : Statement (.selEms1 wl) := fun _ => ⟨wlField_formatS wl 0 1, selField_formatS wl 0 1⟩
theorem selEms2 (wl : Bool) : Statement (.selEms2 wl) := fun _ => ⟨wlField_formatS wl 0 2, selField_formatS wl 0 2⟩
theorem selEms3 (wl : Bool) : Statement (.selEms3 wl) := fun _ => ⟨wlField_formatS wl 0 3, selField_formatS wl 0 3⟩
theorem selEms4 (wl : Bool) : Statement (.selEms4 wl) := fun _ => ⟨wlField_formatS wl 0 4, selField_formatS wl 0 4⟩
theorem selDfs1 (wl : Bool) : Statement (.selDfs1 wl) := fun _ => ⟨wlField_formatS wl 1 1, selField_formatS wl 1 1⟩
theorem selDfs2 (wl : Bool) : Statement (.selDfs2 wl) := fun _ => ⟨wlField_formatS wl 1 2, selField_formatS wl 1 2⟩
theorem selDfs3 (wl : Bool) : Statement (.selDfs3 wl) := fun _ => ⟨wlField_formatS wl 1 3, selField_formatS wl 1 3⟩
theorem selDfs4 (wl : Bool) : Statement (.selDfs4 wl) := fun _ => ⟨wlField_formatS wl 1 4, selField_formatS wl 1 4⟩
theorem sel (wl : Bool) (bus : BusField) (idx : IdxField) : Statement (.sel wl bus idx) :=
  fun _ => ⟨wlField_formatS wl bus idx, selField_formatS wl bus idx⟩
theorem unrec (wl : Bool) (code : Code) : Statement (.unrec wl code) :=
  fun _ => ⟨wlField_formatC wl code, selField_formatC wl code⟩

end Sys2Proof.Laws.Layout
end

