-- ==== Sys2Proof/Laws/Step.lean ====
section
/-! SUPPORT. What a step can do, said once (`step_cases`), for every whole-machine proof to cite. -/

namespace Sys2Proof.Machine

/-- What going on with a read can do: dispatch the line's opcode, report a line without digits, go on to the drain, or
wait (40_decoder.md R71 to R75). -/
theorem goOnReading_cases (line : List Byte) (s : State) {r : Result} (h : goOnReading line s = r) :
    (∃ got rest op, readLine line s.rx = .complete got rest ∧ parseLine got = some op ∧
        r = exec (decodeOpcode s.cfg op) { s with rx := rest, control := .polling }) ∨
      (∃ got rest, readLine line s.rx = .complete got rest ∧ parseLine got = none ∧
        r = .next { s with rx := rest, control := .polling, trace := s.trace ++ [.tx .notANumber] }) ∨
      (∃ rest, readLine line s.rx = .full rest ∧ r = .next { s with rx := rest, control := .draining }) ∨
      (∃ got, readLine line s.rx = .starved got ∧ r = .next { s with rx := [], control := .reading got }) := by
  unfold goOnReading at h
  cases hl : readLine line s.rx with
  | complete got rest =>
    rw [hl] at h
    simp only [dispatchLine] at h
    cases hp : parseLine got with
    | some op =>
      rw [hp] at h
      exact .inl ⟨got, rest, op, rfl, hp, h.symm⟩
    | none =>
      rw [hp] at h
      exact .inr (.inl ⟨got, rest, rfl, hp, h.symm⟩)
  | full rest =>
    rw [hl] at h
    exact .inr (.inr (.inl ⟨rest, rfl, h.symm⟩))
  | starved got =>
    rw [hl] at h
    exact .inr (.inr (.inr ⟨got, rfl, h.symm⟩))

/-- What one core move can do: an idle iteration, going on with a read, the drain with its report, or a round of INIT. -/
theorem coreMove_cases (s : State) {r : Result} (h : coreMove s = r) :
    (s.control = .polling ∧ s.rx = [] ∧ r = .next s) ∨
      (∃ line, (s.control = .polling ∧ line = [] ∨ s.control = .reading line) ∧ goOnReading line s = r) ∨
      (s.control = .draining ∧
        r = .next { s with rx := [], control := .polling, trace := s.trace ++ [.tx .framingError] }) ∨
      (∃ op, s.control = .initPolling op ∧ r = .next (initRound op s)) := by
  unfold coreMove at h
  cases hc : s.control with
  | polling =>
    simp only [hc] at h
    by_cases ha : rxAvail s
    · rw [if_pos ha] at h
      exact .inr (.inl ⟨[], .inl ⟨rfl, rfl⟩, h⟩)
    · rw [if_neg ha] at h
      refine .inl ⟨rfl, ?_, h.symm⟩
      simpa [rxAvail] using ha
  | reading line =>
    simp only [hc] at h
    exact .inr (.inl ⟨line, .inr rfl, h⟩)
  | draining =>
    simp only [hc] at h
    exact .inr (.inr (.inl ⟨rfl, h.symm⟩))
  | initPolling op =>
    simp only [hc] at h
    exact .inr (.inr (.inr ⟨op, rfl, h.symm⟩))

/-- What one step can do: the host appends, the timeout fires, or the core moves. -/
theorem step_cases (s : State) {r : Result} (h : step s = r) :
    (∃ bytes moves, s.schedule = .hostSends bytes :: moves ∧ r = hostSend bytes (s.putSchedule moves)) ∨
      (∃ moves, s.schedule = .timeout :: moves ∧ r = .next (timeoutMove (s.putSchedule moves))) ∨
      (s.schedule = [] ∧ waiting s = true ∧ r = .next (s.putControl .draining)) ∨
      (s.CoreActs ∧ ¬ (s.schedule = [] ∧ waiting s = true) ∧ coreMove (s.putSchedule s.schedule.tail) = r) := by
  unfold step nextMove at h
  cases hs : s.schedule with
  | nil =>
    simp only [hs, defaultMove] at h
    by_cases hw : waiting s
    · rw [if_pos hw] at h
      exact .inr (.inr (.inl ⟨rfl, hw, by simp [← h, timeoutMove, hw]⟩))
    · rw [if_neg hw] at h
      refine .inr (.inr (.inr ⟨.inl hs, fun hh => hw hh.2, ?_⟩))
      have : s.putSchedule [] = s := by cases s; simp_all [State.putSchedule]
      simpa [this] using h
  | cons m moves =>
    cases m with
    | hostSends bytes =>
      simp only [hs] at h
      exact .inl ⟨bytes, moves, rfl, h.symm⟩
    | timeout =>
      simp only [hs] at h
      exact .inr (.inl ⟨moves, rfl, h.symm⟩)
    | core =>
      simp only [hs] at h
      exact .inr (.inr (.inr ⟨.inr (by simp [hs]), by simp, by simpa using h⟩))

/-- A timeout changes at most where the control path stands, and only of a waiting read (40_decoder.md R73). -/
theorem timeoutMove_cases (s : State) :
    (waiting s = true ∧ timeoutMove s = s.putControl .draining) ∨ (waiting s = false ∧ timeoutMove s = s) := by
  cases h : waiting s
  · right; simp [timeoutMove, h]
  · left; simp [timeoutMove, h]

/-- A control path that waits is inside a read with RX empty. -/
theorem waiting_iff (s : State) : waiting s = true ↔ (∃ line, s.control = .reading line) ∧ s.rx = [] := by
  unfold waiting rxAvail
  cases s.control <;> simp

/-- A run goes on after a step that answers a next state. -/
theorem runSteps_next {k : Nat} {s t : State} (h : step s = .next t) : runSteps (k + 1) s = runSteps k t := by
  simp only [runSteps, h]

/-- One step of a run is the step. -/
theorem runSteps_one (s : State) : runSteps 1 s = step s := by
  simp only [runSteps]
  cases step s <;> rfl

/-- Where the core acts and no wait on an empty RX is over, the step is the core's move. -/
theorem step_coreActs {s : State} (h : s.CoreActs) (hw : waiting s = false) :
    step s = coreMove (s.putSchedule s.schedule.tail) := by
  unfold step nextMove
  cases hs : s.schedule with
  | nil =>
    have : s.putSchedule [] = s := by cases s; simp_all [State.putSchedule]
    simp only [defaultMove, hw, List.tail_nil, this]
    rfl
  | cons m moves =>
    have : m = .core := by simpa [State.CoreActs, hs] using h
    subst this
    rfl

/-- At the top of the loop with input pending, the step begins a read. -/
theorem step_polling {s : State} (h : s.CoreActs) (hc : s.control = .polling) (hr : s.rx ≠ []) :
    step s = goOnReading [] (s.putSchedule s.schedule.tail) := by
  rw [step_coreActs h (by simp [waiting, hc])]
  unfold coreMove
  simp [hc, rxAvail, hr]

end Sys2Proof.Machine
end

