-- ==== Sys2Proof/Tests/Slice0.lean ====
section
/-! SUPPORT. The model's own tests, with expected results from 95_test_vectors.md and the encoding tables of
30_encoding.md, and for every statement with hypotheses a witness that meets them. -/

namespace Sys2Proof.Tests

open Sys2Proof Sys2Proof.Machine

/-! ## Helpers -/

/-- A line written out: digit characters, CR, LF. -/
def line (digits : List Nat) : List Byte :=
  digits.map (fun d => BitVec.ofNat 8 (0x30 + d)) ++ [0x0D, 0x0A]

/-- A state at the top of the loop with these bytes pending and the core to act. -/
def start (status : Byte) (echo : Bool) (rx : List Byte) : State :=
  { State.reset with status := status, echo := echo, rx := rx }

/-- STATUS, ECHO, trace and RX of a next state. -/
def seen : Result → Option (Byte × Bool × List Event × List Byte)
  | .next t => some (t.status, t.echo, t.trace, t.rx)
  | _ => none

/-- Where the control path stands in a next state. -/
def place : Result → Option Control
  | .next t => some t.control
  | _ => none

/-- The reason of a refusal. -/
def reason : Result → Option Refusal
  | .refused r => some r
  | _ => none

/-- Scripted HAL answers. -/
def answers (init active : List Bool) (version modules : List Text) (check : List CheckStatus) : HalAnswers :=
  ⟨init, active, version, modules, check⟩

/-- Read-status slots, a finite RX_CAP and the two behaviour parameters, set otherwise. -/
def otherConfig : Config :=
  { Config.default with opcRdstat := [0x0B], rxCap := some 10, unwiredUpdatesStatus := true, chk24vFallthrough := true }

/-- Five read-status slots, two of them beyond the rows of the opcode table. -/
def fiveSlots : Config :=
  { Config.default with opcRdstat := [0x0B, 0x0C, 0x0D, 0x20, 0x3F] }

/-! ## WellFormed refuses what the spec excludes (00_scope.md R5; 30_encoding.md R56, R59) -/

theorem test_wf_default : Config.default.WF ∧ otherConfig.WF ∧ fiveSlots.WF := by decide

theorem test_wf_refuses_equal_codes : ¬ { Config.default with opcTecho := 0x00 }.CodesOk := by decide

theorem test_wf_refuses_code_0x28 : ¬ { Config.default with opcInit := 0x28 }.CodesOk := by decide

theorem test_wf_refuses_slots :
    ¬ { Config.default with opcRdstat := [] }.SlotsOk ∧ ¬ { Config.default with outSlot := 0 }.SlotsOk := by decide

theorem test_wf_refuses_channels :
    ¬ { Config.default with wiring := [⟨.ems, 1, 0⟩] }.ChannelsOk ∧
      ¬ { Config.default with wiring := [⟨.ems, 1, 5⟩] }.ChannelsOk ∧
      ¬ { Config.default with wiring := [⟨.ems, 1, 6⟩] }.ChannelsOk ∧
      ¬ { Config.default with chBusselEms := 0 }.ChannelsOk ∧ ¬ { Config.default with chBusselDfs := 0 }.ChannelsOk ∧
      ¬ { Config.default with chBusselDfs := 5 }.ChannelsOk := by decide

theorem test_wf_refuses_cap : ¬ { Config.default with rxCap := some 9 }.CapOk := by decide

theorem test_wf_refuses_named_sel : (Instr.sel false 0 1).wf Config.default = false := by decide

theorem test_wf_refuses_light_pattern : (Instr.sel true 3 15).wf Config.default = false := by decide

theorem test_wf_refuses_unrec_member : (Instr.unrec true 0x0D).wf Config.default = false := by decide

theorem test_wf_refuses_missing_slots :
    (Instr.rdstat1 true).wf { Config.default with opcRdstat := [] } = false ∧
      (Instr.rdstat2 true).wf otherConfig = false ∧
      (Instr.rdstat3 true).wf { Config.default with opcRdstat := [0x0B, 0x0C] } = false ∧
      (Instr.rdstatFurther true 4).wf Config.default = false ∧ (Instr.rdstatFurther true 3).wf fiveSlots = false ∧
      (Instr.rdstatFurther true 6).wf fiveSlots = false := by decide

/-! ## Every constructor's word, written out from 30_encoding.md R55, R57, R58 -/

theorem test_words_light :
    decode Config.default (line [1, 1, 1, 1, 1, 1, 1, 1]) = .ok (.wlon, []) ∧
      decode Config.default (line [0, 1, 1, 1, 1, 1, 1, 1]) = .ok (.wloff, []) := by decide

theorem test_words_config_low :
    decode Config.default (line [0, 0, 0, 0, 0, 0, 0, 0]) = .ok (.sleep false, []) ∧
      decode Config.default (line [0, 0, 0, 0, 0, 0, 0, 1]) = .ok (.techo false, []) ∧
      decode Config.default (line [0, 0, 0, 0, 0, 0, 1, 0]) = .ok (.fwver false, []) ∧
      decode Config.default (line [0, 0, 0, 0, 0, 0, 1, 1]) = .ok (.baseact false, []) ∧
      decode Config.default (line [0, 0, 0, 0, 0, 1, 0, 0]) = .ok (.prmod false, []) ∧
      decode Config.default (line [0, 0, 0, 0, 0, 1, 0, 1]) = .ok (.chk24v1 false, []) ∧
      decode Config.default (line [0, 0, 0, 0, 0, 1, 1, 0]) = .ok (.chk24v2 false, []) := by decide

theorem test_words_config_high :
    decode Config.default (line [1, 0, 0, 0, 0, 1, 1, 1]) = .ok (.chk24v3 true, []) ∧
      decode Config.default (line [1, 0, 0, 0, 1, 0, 0, 0]) = .ok (.init true, []) ∧
      decode Config.default (line [1, 0, 0, 0, 1, 0, 0, 1]) = .ok (.disable true, []) ∧
      decode Config.default (line [1, 0, 0, 0, 1, 0, 1, 0]) = .ok (.qstat true, []) ∧
      decode Config.default (line [1, 0, 0, 0, 1, 0, 1, 1]) = .ok (.rdstat1 true, []) ∧
      decode Config.default (line [1, 0, 0, 0, 1, 1, 0, 0]) = .ok (.rdstat2 true, []) ∧
      decode Config.default (line [1, 0, 0, 0, 1, 1, 0, 1]) = .ok (.rdstat3 true, []) := by decide

/-- The fourth and fifth slots of a configuration that has them (00_scope.md R5): recognised and refused by their slot. -/
theorem test_further_slots :
    decode fiveSlots (line [0, 0, 1, 0, 0, 0, 0, 0]) = .ok (.rdstatFurther false 4, []) ∧
      decode fiveSlots (line [1, 0, 1, 1, 1, 1, 1, 1]) = .ok (.rdstatFurther true 5, []) ∧
      reason (step { start 0 false (line [0, 0, 1, 0, 0, 0, 0, 0]) with cfg := fiveSlots }) =
        some (.readStatusActionNotInSource 4) := by decide

theorem test_words_selection :
    decode Config.default (line [0, 1, 0, 0, 0, 0, 0, 1]) = .ok (.selEms1 false, []) ∧
      decode Config.default (line [0, 1, 0, 0, 0, 0, 1, 0]) = .ok (.selEms2 false, []) ∧
      decode Config.default (line [0, 1, 0, 0, 0, 0, 1, 1]) = .ok (.selEms3 false, []) ∧
      decode Config.default (line [0, 1, 0, 0, 0, 1, 0, 0]) = .ok (.selEms4 false, []) ∧
      decode Config.default (line [1, 1, 0, 1, 0, 0, 0, 1]) = .ok (.selDfs1 true, []) ∧
      decode Config.default (line [1, 1, 0, 1, 0, 0, 1, 0]) = .ok (.selDfs2 true, []) ∧
      decode Config.default (line [1, 1, 0, 1, 0, 0, 1, 1]) = .ok (.selDfs3 true, []) ∧
      decode Config.default (line [1, 1, 0, 1, 0, 1, 0, 0]) = .ok (.selDfs4 true, []) := by decide

theorem test_words_generic :
    decode Config.default (line [0, 1, 0, 0, 0, 0, 0, 0]) = .ok (.sel false 0 0, []) ∧
      decode Config.default (line [1, 1, 1, 1, 1, 1, 1, 0]) = .ok (.sel true 3 14, []) ∧
      decode Config.default (line [0, 0, 0, 0, 1, 1, 1, 0]) = .ok (.unrec false 0x0E, []) ∧
      decode Config.default (line [1, 0, 1, 1, 1, 1, 1, 1]) = .ok (.unrec true 0x3F, []) := by decide

/-- The encoder writes the lines of the same tables. -/
theorem test_encode_writes_the_tables :
    encode Config.default (.disable false) = line [0, 0, 0, 0, 1, 0, 0, 1] ∧
      encode Config.default (.selDfs4 true) = line [1, 1, 0, 1, 0, 1, 0, 0] ∧
      encode Config.default (.sel false 2 1) = line [0, 1, 1, 0, 0, 0, 0, 1] ∧
      encode Config.default (.unrec true 0x28) = line [1, 0, 1, 0, 1, 0, 0, 0] := by decide

/-- The opcode table's words through the host's interface. -/
theorem test_table_words :
    decodeTableWord 8 0x08 = some (.init false) ∧ decodeTableWord 8 0xFF = some .wlon ∧
      decodeTableWord 8 0x54 = some (.selDfs4 false) ∧ decodeTableWord 16 0x0154 = none := by decide

/-- A placed word is fetched and run by the next step (0x41 after reset: three writes, STATUS 0x41). -/
theorem test_placed_word_runs :
    seen (step (State.reset.withFetchWord 8 0x41)) =
      some (0x41, false, [.dwrite false 1 0, .dwrite true 1 1, .dwrite true 1 5], []) := by decide

/-! ## The line reader (VD vectors) -/

theorem test_vd_short_literals :
    decodeBytes (line [1]) = .ok (0x01, []) ∧ decodeBytes (line [1, 0, 1]) = .ok (0x05, []) ∧
      decodeBytes (line [1, 2]) = .ok (0x01, []) ∧
      decodeBytes [0x30, 0x62, 0x30, 0x30, 0x30, 0x30, 0x30, 0x31, 0x0D, 0x0A] = .ok (0x00, []) := by decide

theorem test_vd_nine_digits :
    decodeBytes [0x31, 0x31, 0x31, 0x31, 0x31, 0x31, 0x31, 0x31, 0x31, 0x0A] = .ok (0xFF, []) ∧
      decodeBytes [0x31, 0x30, 0x30, 0x30, 0x30, 0x30, 0x30, 0x30, 0x30, 0x0A] = .ok (0x00, []) ∧
      decodeBytes [0x31, 0x30, 0x31, 0x30, 0x31, 0x30, 0x30, 0x31, 0x31, 0x0A] = .ok (0x53, []) := by decide

theorem test_vd_not_a_number :
    decodeBytes [0x2B, 0x31, 0x0D, 0x0A] = .error .notANumber ∧
      decodeBytes [0x00, 0x30, 0x31, 0x0D, 0x0A] = .error .notANumber ∧
      decodeBytes [0x20, 0x31, 0x30, 0x30, 0x30, 0x30, 0x30, 0x31, 0x0D, 0x0A] = .error .notANumber := by decide

theorem test_vd_framing :
    decodeBytes (line [0, 1, 0, 0, 0, 0, 0, 1, 1]) = .error .framingError ∧
      decodeBytes [0x30, 0x31, 0x30, 0x30] = .error .framingError ∧
      decodeBytes [0x30, 0x31, 0x30, 0x30, 0x30, 0x30, 0x30, 0x31, 0x0D] = .error .framingError := by decide

theorem test_vd_pipelining :
    decodeBytes (line [0, 1, 0, 0] ++ line [0, 1, 0, 1]) = .ok (0x04, line [0, 1, 0, 1]) ∧
      decodeBytes (line [0, 1, 0, 0, 0, 0, 0, 1] ++ [0x41, 0x42]) = .ok (0x41, [0x41, 0x42]) := by decide

/-- VD24, VX5: an over-long line of letters is a framing error; the rest of it is drained in the next step. -/
theorem test_vx_framing_drains :
    place (step (start 0x41 true ((List.replicate 12 0x78) ++ [0x0D, 0x0A]))) = some .draining ∧
      seen (runSteps 2 (start 0x41 true ((List.replicate 12 0x78) ++ [0x0D, 0x0A]))) =
        some (0x41, true, [.tx .framingError], []) := by decide

/-- VX6: NotANumber is not echoed. -/
theorem test_vx_not_a_number :
    seen (step (start 0x42 true [0x78, 0x79, 0x7A, 0x0D, 0x0A])) = some (0x42, true, [.tx .notANumber], []) := by decide

/-- The timeout ends a wait on an empty RX, and no read that has bytes pending (20_memory.md R32, D12). -/
theorem test_timeout_ends_a_wait :
    place (step { start 0 false [] with control := .reading [0x30], schedule := [.timeout] }) = some .draining ∧
      place (step { start 0 false [0x31] with control := .reading [0x30], schedule := [.timeout] }) =
        some (.reading [0x30]) := by decide

/-! ## The instructions (VE, VW, VC, VS, VX vectors); one step each -/

theorem test_ve1_echo_before_selection :
    seen (step (start 0x00 true (line [0, 1, 0, 0, 0, 0, 0, 1]))) =
      some (0x41, true, [.tx (.echo 0x41), .dwrite false 1 0, .dwrite true 1 1, .dwrite true 1 5], []) := by decide

theorem test_ve3_qstat_unechoed :
    seen (step (start 0x00 true (line [1, 0, 0, 0, 1, 0, 1, 0]))) = some (0x00, true, [.tx (.status 0x00)], []) := by decide

theorem test_ve4_unrecognized_with_echo :
    seen (step (start 0x00 true (line [0, 0, 1, 0, 1, 0, 0, 0]))) =
      some (0x00, true, [.tx (.echo 0x28), .tx (.unrecognized 0x28)], []) := by decide

theorem test_ve11_unrecognized_raw_opcode :
    seen (step (start 0x00 false (line [1, 0, 1, 0, 1, 0, 0, 0]))) =
      some (0x00, false, [.tx (.unrecognized 0xA8)], []) := by decide

theorem test_ve6_wlon_echoed :
    seen (step (start 0x41 true (line [1, 1, 1, 1, 1, 1, 1, 1]))) =
      some (0xC1, true, [.tx (.echo 0xFF), .warnLight true], []) := by decide

theorem test_vw3_wloff_keeps_low_bits :
    seen (step (start 0xC4 false (line [0, 1, 1, 1, 1, 1, 1, 1]))) = some (0x44, false, [.warnLight false], []) := by decide

theorem test_ve7_techo_uses_old_flag :
    seen (step (start 0x00 true (line [0, 0, 0, 0, 0, 0, 0, 1]))) =
      some (0x00, false, [.tx (.echo 0x01), .tx (.echoState false)], []) := by decide

theorem test_vc1_sleep_keeps_light_bit :
    seen (step (start 0xC3 false (line [0, 0, 0, 0, 0, 0, 0, 0]))) = some (0x80, false, [.dwrite false 1 0], []) := by decide

theorem test_vc2_sleep_drops_opcode_bit7 :
    seen (step (start 0x43 false (line [1, 0, 0, 0, 0, 0, 0, 0]))) = some (0x00, false, [.dwrite false 1 0], []) := by decide

/-- VC4: version "1.2.3". -/
theorem test_vc4_fwver_active :
    seen (step { start 0x00 false (line [0, 0, 0, 0, 0, 0, 1, 0]) with
        hal := answers [] [true] [[0x31, 0x2E, 0x32, 0x2E, 0x33]] [] [] }) =
      some (0x00, false, [.halIsBaseActive true, .halGetFwVersion [0x31, 0x2E, 0x32, 0x2E, 0x33],
        .tx (.fwVersion [0x31, 0x2E, 0x32, 0x2E, 0x33])], []) := by decide

theorem test_vc5_fwver_inactive :
    seen (step { start 0x00 false (line [0, 0, 0, 0, 0, 0, 1, 0]) with hal := answers [] [false] [] [] [] }) =
      some (0x00, false, [.halIsBaseActive false], []) := by decide

theorem test_vc6_baseact_inactive :
    seen (step { start 0x00 false (line [0, 0, 0, 0, 0, 0, 1, 1]) with hal := answers [] [false] [] [] [] }) =
      some (0x00, false, [.halIsBaseActive false, .tx (.baseActive false)], []) := by decide

theorem test_vc7_prmod_active :
    seen (step { start 0x00 false (line [0, 0, 0, 0, 0, 1, 0, 0]) with hal := answers [] [true] [] [[0x4D, 0x0A]] [] }) =
      some (0x00, false, [.halIsBaseActive true, .halPrintModules, .tx (.modules [0x4D, 0x0A])], []) := by decide

theorem test_vc8_check24v :
    seen (step { start 0x41 false (line [0, 0, 0, 0, 0, 1, 0, 1]) with hal := answers [] [] [] [] [7] }) =
        some (0x41, false, [.halCheck24V 1 7], []) ∧
      seen (step { start 0x41 false (line [0, 0, 0, 0, 0, 1, 1, 0]) with hal := answers [] [] [] [] [7] }) =
        some (0x41, false, [.halCheck24V 2 7], []) ∧
      seen (step { start 0x41 false (line [0, 0, 0, 0, 0, 1, 1, 1]) with hal := answers [] [] [] [] [7] }) =
        some (0x41, false, [.halCheck24V 3 7], []) :=
  ⟨by decide, by decide, by decide⟩

/-- VC15, for slot 2, whose as-built checks are all said by the document (R119). -/
theorem test_vc15_check24v2_as_built :
    seen (step { start 0x41 false (line [0, 0, 0, 0, 0, 1, 1, 0]) with
        cfg := otherConfig, hal := answers [true] [] [] [] [7, 8] }) =
      some (0x00, false, [.halCheck24V 2 7, .halCheck24V 3 8, .halInit true], []) := by decide

/-- VC9: init = false, false, true takes three steps. -/
theorem test_vc9_init_polls :
    place (step { start 0xC4 false (line [0, 0, 0, 0, 1, 0, 0, 0]) with hal := answers [false, false, true] [] [] [] [] }) =
        some (.initPolling 0x08) ∧
      seen (runSteps 3
          { start 0xC4 false (line [0, 0, 0, 0, 1, 0, 0, 0]) with hal := answers [false, false, true] [] [] [] [] }) =
        some (0x80, false, [.halInit false, .halInit false, .halInit true], []) := by decide

theorem test_vc10_init_records_sleep :
    seen (step { start 0x53 false (line [0, 0, 0, 0, 1, 0, 0, 0]) with hal := answers [true] [] [] [] [] }) =
      some (0x00, false, [.halInit true], []) := by decide

theorem test_vc11_disable :
    seen (step (start 0xC4 false (line [0, 0, 0, 0, 1, 0, 0, 1]))) =
      some (0x89, false, [.halEnableBaseController false], []) := by decide

theorem test_vc12_qstat :
    seen (step (start 0xC1 false (line [0, 0, 0, 0, 1, 0, 1, 0]))) = some (0xC1, false, [.tx (.status 0xC1)], []) := by decide

theorem test_vc14_rdstat_refused :
    reason (step (start 0 false (line [0, 0, 0, 0, 1, 0, 1, 1]))) = some (.readStatusActionNotInSource 1) ∧
      reason (step (start 0 false (line [0, 0, 0, 0, 1, 1, 0, 0]))) = some (.readStatusActionNotInSource 2) ∧
      reason (step (start 0 false (line [0, 0, 0, 0, 1, 1, 0, 1]))) = some (.readStatusActionNotInSource 3) := by decide

theorem test_vs_ems :
    seen (step (start 0x80 false (line [0, 1, 0, 0, 0, 0, 1, 0]))) =
        some (0xC2, false, [.dwrite false 1 0, .dwrite true 1 2, .dwrite true 1 5], []) ∧
      seen (step (start 0x00 false (line [0, 1, 0, 0, 0, 0, 1, 1]))) =
        some (0x43, false, [.dwrite false 1 0, .dwrite true 1 3, .dwrite true 1 5], []) ∧
      seen (step (start 0x80 false (line [1, 1, 0, 0, 0, 1, 0, 0]))) =
        some (0xC4, false, [.dwrite false 1 0, .dwrite true 1 4, .dwrite true 1 5], []) :=
  ⟨by decide, by decide, by decide⟩

theorem test_vs_dfs :
    seen (step (start 0x80 false (line [0, 1, 0, 1, 0, 0, 0, 1]))) =
        some (0xD1, false, [.dwrite false 1 0, .dwrite true 1 1, .dwrite true 1 6], []) ∧
      seen (step (start 0x00 false (line [1, 1, 0, 1, 0, 0, 1, 0]))) =
        some (0x52, false, [.dwrite false 1 0, .dwrite true 1 2, .dwrite true 1 6], []) ∧
      seen (step (start 0x00 false (line [0, 1, 0, 1, 0, 0, 1, 1]))) =
        some (0x53, false, [.dwrite false 1 0, .dwrite true 1 3, .dwrite true 1 6], []) ∧
      seen (step (start 0x80 false (line [0, 1, 0, 1, 0, 1, 0, 0]))) =
        some (0xD4, false, [.dwrite false 1 0, .dwrite true 1 4, .dwrite true 1 6], []) :=
  ⟨by decide, by decide, by decide, by decide⟩

theorem test_ve10_unwired_echo_only :
    seen (step (start 0x42 true (line [0, 1, 1, 0, 0, 0, 0, 1]))) = some (0x42, true, [.tx (.echo 0x61)], []) := by decide

theorem test_vs_unwired_updates_status :
    seen (step { start 0xC2 false (line [0, 1, 0, 0, 0, 0, 0, 0]) with cfg := otherConfig }) =
        some (0xC0, false, [], []) ∧
      seen (step (start 0x53 false (line [1, 1, 1, 1, 1, 1, 1, 0]))) = some (0x53, false, [], []) := by decide

/-! ## The pin image and the rendering (VP vectors; D16) -/

theorem test_vp2_buses_exclusive :
    let tr : List Event := [.dwrite false 1 0, .dwrite true 1 2, .dwrite true 1 5, .dwrite false 1 0, .dwrite true 1 2,
      .dwrite true 1 6]
    pin tr 1 5 = some false ∧ pin tr 1 6 = some true ∧ pin tr 1 2 = some true ∧ pin tr 2 2 = none := by decide

theorem test_vp5_lamp_apart :
    wlcmd [.warnLight true, .dwrite false 1 0] = some true ∧ pin [.warnLight true] 1 1 = none := by decide

/-- VE9: the default text `Opcode: 0xC1 (193)`; VC12: `11000001`. -/
theorem test_rendering :
    defaultRender (.echo 0xC1) = [0x4F, 0x70, 0x63, 0x6F, 0x64, 0x65, 0x3A, 0x20, 0x30, 0x78, 0x43, 0x31, 0x20, 0x28, 0x31,
        0x39, 0x33, 0x29, 0x0D, 0x0A] ∧
      txBytes defaultRender [.warnLight true, .tx (.status 0xC1)] = line [1, 1, 0, 0, 0, 0, 0, 1] := by
  constructor <;> rfl

/-- VR1: the state after power-up. -/
theorem test_vr1_power_up :
    State.reset.status = 0x00 ∧ State.reset.echo = false ∧ State.reset.trace = [] ∧ State.reset.control = .polling := by
  decide

/-! ## Witnesses: for every statement with hypotheses, states and operands that meet them, at the boundary of each clause -/

theorem witness_DecodeOfEncodeIsTheInstruction :
    Config.default.CodesOk ∧ otherConfig.CodesOk ∧
      (∀ i ∈ [Instr.wlon, .wloff, .sleep true, .rdstat1 false, .rdstat2 false, .rdstat3 true, .selEms1 true, .selDfs4 false,
        .sel false 0 0, .sel true 3 14, .unrec false 0x0E, .unrec true 0x3F], i.wf Config.default = true) ∧
      (Instr.unrec false 0x0D).wf otherConfig = true ∧ fiveSlots.CodesOk ∧
      (∀ slot ∈ [4, 5], (Instr.rdstatFurther true slot).wf fiveSlots = true) := by decide

theorem witness_OpcodesClassifyInTheFixedOrder :
    Config.default.CodesOk ∧ fiveSlots.CodesOk ∧
      (∀ slot ∈ [4, 5], slot ≤ fiveSlots.nslotRd ∧ codeField (formatC true (fiveSlots.rdstatCode slot)) =
        fiveSlots.rdstatCode slot) ∧
      (∀ op ∈ ([0x00, 0x81, 0x02, 0x83, 0x04, 0x85, 0x06, 0x87, 0x08, 0x89, 0x0A, 0x8B, 0x0C, 0x8D] : List Opcode),
        selField op = false ∧ codeField op ∈ Config.default.enumeration) ∧
      (∀ op ∈ ([0x0E, 0x28, 0x3F, 0xBF] : List Opcode),
        selField op = false ∧ codeField op ∉ Config.default.enumeration) ∧
      (∀ op ∈ ([0x40, 0x41, 0x7E, 0xC0, 0xFE] : List Opcode), selField op = true ∧ op ≠ 0xFF ∧ op ≠ 0x7F) := by
  decide

theorem witness_DigitRunDecodesToItsValueModulo256 :
    (∀ p ∈ [(List.replicate 9 true, ([] : List Byte)), ([true], [0x0D]), ([false], List.replicate 8 0x31 |>.set 0 0x78)],
      p.1 ≠ [] ∧ p.1.length + p.2.length ≤ 9 ∧ asciiLf ∉ p.2 ∧ p.2.head? ≠ some asciiZero ∧
        p.2.head? ≠ some asciiOne) := by decide

theorem witness_LineWithoutDigitsIsNotANumber :
    ∀ l ∈ [([] : List Byte), [0x0D], List.replicate 9 0x78],
      let s := start 0x42 true (l ++ asciiLf :: [0x31])
      s.control = .polling ∧ s.CoreActs ∧ l.length ≤ 9 ∧ asciiLf ∉ l ∧ l.head? ≠ some asciiZero ∧
        l.head? ≠ some asciiOne ∧ s.rx = l ++ asciiLf :: [0x31] := by decide

theorem witness_FramingErrorDrainsAndReports :
    (let s := start 0x42 true (List.replicate 10 0x31 ++ [0x0A]);
      s.control = .polling ∧ s.CoreActs ∧ (List.replicate 10 (0x31 : Byte)).length = 10 ∧
        asciiLf ∉ List.replicate 10 (0x31 : Byte) ∧ s.rx = List.replicate 10 0x31 ++ [0x0A]) ∧
      (let s := { start 0x42 true [] with control := .reading [0x31], schedule := [.timeout, .core] };
        s.control = .reading [0x31] ∧ s.rx = [] ∧ s.schedule = .timeout :: [.core]) ∧
      (let s := { start 0x42 true [0x31] with control := .draining, schedule := [.core] };
        s.control = .draining ∧ s.CoreActs) ∧
      (let s := start 0x42 true [0x30, 0x31, 0x30, 0x30, 0x30, 0x30, 0x30, 0x31, 0x30, 0x30, 0x0D, 0x0A];
        s.control = .polling ∧ s.schedule = []) := by decide

theorem witness_TimeoutOnlyWhileWaiting :
    (let s := { start 0 false [] with schedule := [.timeout] };
      s.schedule = .timeout :: [] ∧ ∀ l, s.control ≠ .reading l) ∧
      (let s := { start 0 false [0x31] with control := .reading [], schedule := [.timeout] };
        s.schedule = .timeout :: [] ∧ s.rx ≠ []) :=
  ⟨⟨rfl, fun l h => nomatch h⟩, by decide⟩

theorem witness_ShortReadWaitsForMoreBytes :
    ∀ bytes ∈ [[0x0D], List.replicate 9 (0x30 : Byte)],
      let s := start 0 false bytes
      s.control = .polling ∧ s.CoreActs ∧ s.rx ≠ [] ∧ s.rx.length < 10 ∧ asciiLf ∉ s.rx := by decide

theorem witness_ReadInTwoPartsEqualsReadAtOnce :
    (start 0 true []).control = .polling ∧ (start 0 true []).cfg.rxCap = none ∧ otherConfig.rxCap = some 10 ∧
      ∀ first ∈ [[0x31], List.replicate 9 (0x30 : Byte)],
        first.length + [asciiLf].length ≤ 10 ∧ first ≠ [] ∧ first.length < 10 ∧ asciiLf ∉ first := by decide

theorem witness_BlockedReadEndsInTwoSteps :
    let s := { start 0x53 true [] with control := .reading [0x30, 0x31] }
    s.control = .reading [0x30, 0x31] ∧ s.rx = [] ∧ s.schedule = [] := by decide

theorem witness_StepRunsTheDecodedInstruction :
    (∀ l ∈ [[0x31], line [0, 1, 0, 0, 0, 0, 0, 1] |>.dropLast],
      let s := start 0 true (l ++ asciiLf :: [0x30])
      s.control = .polling ∧ s.CoreActs ∧ l.length ≤ 9 ∧ asciiLf ∉ l ∧ parseLine (l ++ [asciiLf]) ≠ none ∧
        s.rx = l ++ asciiLf :: [0x30]) ∧
      (let s := start 0 true (encode Config.default (.sel true 3 14) ++ [0x30]);
        s.cfg.CodesOk ∧ (Instr.sel true 3 14).wf s.cfg = true ∧ s.control = .polling ∧ s.CoreActs ∧
          s.rx = encode s.cfg (.sel true 3 14) ++ [0x30]) := by decide

theorem witness_IdleIterationChangesNothing :
    (let s := { start 0x41 true [] with schedule := [.core, .core] };
      s.control = .polling ∧ s.CoreActs ∧ s.rx = []) ∧ (start 0x41 true []).Quiescent := by decide

theorem witness_HostBytesQueueUp :
    let sends := fun (n : Nat) (cap : Option Nat) =>
      { start 0 false [] with cfg := { Config.default with rxCap := cap }, schedule := [.hostSends (List.replicate n 0x30)] }
    (sends 3 none).cfg.rxCap = none ∧
      ((sends 10 (some 10)).cfg.rxCap = some 10 ∧ (sends 10 (some 10)).rx.length + 10 ≤ 10) ∧
      ((sends 11 (some 10)).cfg.rxCap = some 10 ∧ 10 < (sends 11 (some 10)).rx.length + 11) ∧
      (sends 11 (some 10)).schedule = .hostSends (List.replicate 11 0x30) :: [] := by decide

theorem witness_EchoComesFirstAndOnce :
    (start 0 true []).cfg.CodesOk ∧
      (∀ op ∈ ([0x01, 0x0A, 0x8A, 0xFF] : List Opcode),
        (seen (exec (decodeOpcode (start 0 true []).cfg op) (start 0 true []))).isSome = true) := by decide

theorem witness_WlonSetsOnlyTheLight :
    (start 0x41 true []).status = 0x41 ∧ ∃ t, exec .wlon (start 0x41 true []) = .next t := ⟨rfl, _, rfl⟩

theorem witness_WloffClearsOnlyTheLight :
    (start 0xC1 true []).status = 0xC1 ∧ ∃ t, exec .wloff (start 0xC1 true []) = .next t := ⟨rfl, _, rfl⟩

/-- For FWVER and PRMOD: the base controller active, and inactive. -/
theorem witness_base_active_and_inactive :
    nextIsBaseActive { start 0 false [] with hal := answers [] [true] [] [] [] } = true ∧
      nextIsBaseActive { start 0 false [] with hal := answers [] [false] [] [] [] } = false := by decide

theorem witness_Check24V :
    (start 0 true []).cfg.chk24vFallthrough = false ∧
      ({ start 0 true [] with cfg := otherConfig }).cfg.chk24vFallthrough = true := by decide

theorem witness_InitPollsAndRecordsSleep :
    nextInit { start 0xC4 false [] with hal := answers [true] [] [] [] [] } = true ∧
      nextInit { start 0xC4 false [] with hal := answers [false] [] [] [] [] } = false := by decide

theorem witness_InitLoopRunsUntilTrue :
    ∀ n ∈ [0, 2],
      let s := { start 0xC4 false [0x31] with
        control := .initPolling 0x88, hal := answers (List.replicate n false ++ true :: [false]) [] [] [] [] }
      s.control = .initPolling 0x88 ∧ s.schedule = [] ∧ s.hal.init = List.replicate n false ++ true :: [false] := by
  decide

theorem witness_ReadStatusIsRecognisedAndRefused :
    otherConfig.CodesOk ∧ 1 ≤ otherConfig.nslotRd ∧ Config.default.CodesOk ∧ 3 ≤ Config.default.nslotRd ∧
      fiveSlots.CodesOk ∧ 5 ≤ fiveSlots.nslotRd := by decide

theorem witness_WiredSelectionWritesThreeAndRecords :
    (Instr.selEms1 true).selection? = some (0, 1) ∧ selectionChannels Config.default 0 1 = some (1, 5) ∧
      (Instr.selDfs4 false).selection? = some (1, 4) ∧ selectionChannels Config.default 1 4 = some (4, 6) ∧
      (Instr.sel true 1 15).selection? = some (1, 15) ∧
      selectionChannels { Config.default with wiring := [⟨.dfs, 15, 20⟩] } 1 15 = some (20, 6) := by decide

theorem witness_UnwiredSelectionIsSilent :
    (Instr.sel false 0 0).selection? = some (0, 0) ∧ wired Config.default 0 0 = false ∧
      (Instr.sel true 3 14).selection? = some (3, 14) ∧ wired otherConfig 3 14 = false ∧
      (Instr.selEms1 false).selection? = some (0, 1) ∧ wired { Config.default with wiring := [] } 0 1 = false := by
  decide

theorem witness_EightDefaultSelections : (start 0x80 true []).cfg = Config.default := rfl

theorem witness_UnrecognizedOpcodeIsReportedOnly :
    Config.default.CodesOk ∧ otherConfig.CodesOk ∧ decodeOpcode Config.default 0x8E = .unrec true 0x0E ∧
      (∀ op ∈ ([0x0E, 0x28, 0x3F, 0x8E, 0xBF] : List Opcode),
        selField op = false ∧ codeField op ∉ (start 0 true []).cfg.enumeration) := by decide

/-- The next step dispatches 0xFF, 0x7F, another opcode, or none, and answers a next state. -/
theorem witness_LightBitIsWrittenByTheLightOpcodesOnly :
    (fetchedOpcode (start 0x41 true (lineOf 0xFF)) = some 0xFF ∧ ∃ t, step (start 0x41 true (lineOf 0xFF)) = .next t) ∧
      (fetchedOpcode (start 0x41 true (lineOf 0x7F)) = some 0x7F ∧ ∃ t, step (start 0x41 true (lineOf 0x7F)) = .next t) ∧
      (fetchedOpcode (start 0x41 true (lineOf 0xFE)) = some 0xFE ∧ ∃ t, step (start 0x41 true (lineOf 0xFE)) = .next t) ∧
      (fetchedOpcode (start 0x41 true []) = none ∧ ∃ t, step (start 0x41 true []) = .next t) :=
  ⟨⟨by decide, _, rfl⟩, ⟨by decide, _, rfl⟩, ⟨by decide, _, rfl⟩, by decide, _, rfl⟩

/-- A state whose dispatch changes WL, one each for LAST by a selection, LAST by INIT's loop, ECHO, and one that works on
no opcode. -/
theorem witness_StatusAndEchoChangeOnlyInTheirCycles :
    ((start 0x41 true (lineOf 0xFF)).ControlOk ∧
      (seen (step (start 0x41 true (lineOf 0xFF)))).map (fun r => (r.1, r.2.1)) = some (0xC1, true)) ∧
      ((start 0x41 true (lineOf 0x54)).ControlOk ∧
        (seen (step (start 0x41 true (lineOf 0x54)))).map (fun r => (r.1, r.2.1)) = some (0x54, true)) ∧
      ((start 0x41 true (lineOf 0x01)).ControlOk ∧
        (seen (step (start 0x41 true (lineOf 0x01)))).map (fun r => (r.1, r.2.1)) = some (0x41, false)) ∧
      (let s := { start 0x41 true [] with control := .initPolling 0x08, hal := answers [true] [] [] [] [] };
        s.ControlOk ∧ cycleOpcode s = some 0x08 ∧ (seen (step s)).map (fun r => r.1) = some 0x00) ∧
      (let s := { start 0x41 true [] with control := .reading [0x31] };
        s.ControlOk ∧ cycleOpcode s = none ∧ ∃ t, step s = .next t) :=
  ⟨⟨trivial, by decide⟩, ⟨trivial, by decide⟩, ⟨trivial, by decide⟩, by decide, by decide, by decide, _, rfl⟩

theorem witness_WarningBitNeverSelectsBehaviour :
    (∀ op ∈ ([0x00, 0x8A, 0x28, 0x41, 0x7E, 0xFE] : List Opcode), op ≠ 0xFF ∧ op ≠ 0x7F ∧
      (seen (exec (decodeOpcode Config.default op) (start 0x41 true []))).isSome = true) ∧
      reason (exec (decodeOpcode Config.default 0x8D) (start 0x41 true [])) = some (.readStatusActionNotInSource 3) := by
  decide

theorem witness_StatusSteersNothing :
    (Instr.wlon ≠ .qstat false ∧ Instr.wlon ≠ .qstat true ∧ ∃ t, exec .wlon (start 0 true []) = .next t) ∧
      (Instr.rdstat1 true ≠ .qstat false ∧ Instr.rdstat1 true ≠ .qstat true ∧
        ∃ r, exec (.rdstat1 true) (start 0 true []) = .refused r) ∧
      ∃ t, exec (.qstat true) (start 0xC1 true []) = .next t :=
  ⟨⟨by decide, by decide, _, rfl⟩, ⟨by decide, by decide, _, rfl⟩, _, rfl⟩

/-- For DispatchReadsNoInputAndEnds and EachClassIssuesOnlyItsEvents: dispatches that end at the top of the loop, and one
that stays in INIT's loop. -/
theorem witness_dispatch_answers_next :
    (∃ t, exec (.selDfs1 true) (start 0x41 true [0x31]) = .next t) ∧
      place (exec (.init true) { start 0x41 true [0x31] with hal := answers [false] [] [] [] [] }) =
        some (.initPolling 0x88) := ⟨⟨_, rfl⟩, by decide⟩

/-- For TraceOnlyGrowsAndConfigurationStays and the other statements about a next state of a step. -/
theorem witness_step_answers_next :
    (∃ t, step (start 0x41 true []) = .next t) ∧ ∃ t, step (start 0x41 true (lineOf 0x41)) = .next t :=
  ⟨⟨_, rfl⟩, _, rfl⟩

theorem witness_NoFaultAndOnlyTwoRefusals :
    reason (step (start 0 false (lineOf 0x8C))) = some (.readStatusActionNotInSource 2) ∧
      reason (step { start 0 false [] with cfg := otherConfig, schedule := [.hostSends (List.replicate 11 0x30)] }) =
        some .rxCapExceeded := by decide

/-- A line without digits, the drain after a failed read, a wait. -/
theorem witness_DecoderTouchesNoState :
    (fetchedOpcode (start 0x41 true [0x78, 0x0A]) = none ∧
      (seen (step (start 0x41 true [0x78, 0x0A]))).map (fun r => r.2.2.1) = some [.tx .notANumber]) ∧
      (fetchedOpcode { start 0x41 true [0x31] with control := .draining } = none ∧
        (seen (step { start 0x41 true [0x31] with control := .draining })).map (fun r => r.2.2.1) =
          some [.tx .framingError]) ∧
      (fetchedOpcode (start 0x41 true [0x31]) = none ∧
        (seen (step (start 0x41 true [0x31]))).map (fun r => r.2.2.1) = some []) := by decide

theorem witness_DispatcherProperties :
    (∀ op ∈ ([0xFF, 0x7F, 0x00] : List Opcode),
      (seen (exec (decodeOpcode Config.default op) (start 0x41 true []))).isSome = true) ∧
      (∀ op ∈ ([0x41, 0xD4] : List Opcode), selField op = true ∧ op ≠ 0xFF ∧ op ≠ 0x7F ∧
        wired Config.default (busField op) (idxField op) = true) ∧
      (∃ t t', exec (.techo false) (start 0 false []) = .next t ∧ exec (.techo true) t = .next t') ∧
      (∃ t t', exec (.sleep true) (start 0xD2 true []) = .next t ∧ exec (.qstat false) t = .next t') ∧
      (selField 0x28 = false ∧ codeField 0x28 ∉ Config.default.enumeration) :=
  ⟨by decide, by decide, ⟨_, _, rfl, rfl⟩, ⟨_, _, rfl, rfl⟩, by decide⟩

theorem witness_PinImageFollowsTheWrites :
    1 ≤ 1 ∧ (2 ≠ 1 ∨ (5 ≠ 0 ∧ 5 ≠ 5)) ∧ ((1 : Nat) ≠ 1 ∨ (6 ≠ 0 ∧ 6 ≠ 5)) ∧
      ∀ level slot' c, Event.warnLight true ≠ Event.dwrite level slot' c :=
  ⟨by decide, by decide, by decide, fun _ _ _ h => nomatch h⟩

theorem witness_PinsAfterSleepAndSelection :
    (∃ t, exec (.sleep false) (start 0 false []) = .next t) ∧ (start 0 false []).cfg.ChannelsOk ∧
      (Instr.selDfs3 false).selection? = some (1, 3) ∧ selectionChannels Config.default 1 3 = some (3, 6) ∧
      ∃ t, exec (.selDfs3 false) (start 0 false []) = .next t :=
  ⟨⟨_, rfl⟩, by decide, rfl, by decide, _, rfl⟩

/-- The three images the invariant allows: unknown, all off, one wired selection; from each a step answers a next state. -/
theorem witness_StepKeepsThePinImage :
    let at_ := fun (tr : List Event) => { start 0x42 false (lineOf 0x51) with trace := tr }
    (∀ tr, (at_ tr).cfg.ChannelsOk) ∧ (∀ tr, ∃ t, step (at_ tr) = .next t) ∧
      (at_ []).PinsOk ∧ (at_ [.dwrite false 1 0]).PinsOk ∧
      (at_ [.dwrite false 1 0, .dwrite true 1 2, .dwrite true 1 5]).PinsOk := by
  refine ⟨fun _ => (by decide : Config.default.ChannelsOk), fun tr => ⟨_, rfl⟩, .inl fun _ _ => rfl, .inr (.inl fun ch _ => ?_),
    .inr (.inr ⟨0, 2, 2, 5, by decide, fun ch _ => ?_⟩)⟩
  · simp [pin, pinStep, start, State.reset, State.powerUp, Config.default]
  · by_cases h2 : ch = 2 <;> by_cases h5 : ch = 5 <;>
      simp [pin, pinStep, start, State.reset, State.powerUp, Config.default, h2, h5, eq_comm]

/-- In the image after SEL.EMS.2 the chain channel 2 and the bus-select channel 5 are on. -/
theorem witness_AtMostOneBusAndOneChainOn :
    let tr : List Event := [.dwrite false 1 0, .dwrite true 1 2, .dwrite true 1 5]
    Config.default.ChannelsOk ∧ pin tr 1 2 = some true ∧ pin tr 1 5 = some true ∧ 2 ≠ Config.default.chBusselEms ∧
      2 ≠ Config.default.chBusselDfs := by decide

theorem witness_StepKeepsLampAndStatusTogether :
    (start 0x80 false (lineOf 0x7F)).LampOk ∧
      { start 0x80 false (lineOf 0x7F) with trace := [.warnLight true] }.LampOk ∧
      ∃ t, step { start 0x80 false (lineOf 0x7F) with trace := [.warnLight true] } = .next t :=
  ⟨.inl rfl, .inr rfl, _, rfl⟩

theorem witness_StepKeepsControlAndBuffers :
    let s := { start 0 false [0x30] with cfg := otherConfig, control := .reading (List.replicate 9 0x31) }
    let u := { start 0 false (List.replicate 10 0x30) with cfg := otherConfig, control := .initPolling 0x85,
                                                           hal := answers [false] [] [] [] [] }
    (s.cfg.WF ∧ s.ControlOk ∧ s.RxOk ∧ place (step s) = some .draining) ∧
      (u.cfg.WF ∧ u.ControlOk ∧ u.RxOk ∧ place (step u) = some (.initPolling 0x85)) := by decide

theorem witness_PowerUpMeetsTheInvariants : Config.default.WF ∧ otherConfig.WF := by decide

end Sys2Proof.Tests
end

section
/-! PROOFS. 10_state.md: what a dispatch and a step do with STATUS (R12, R14), and ECHO after reset (R22). -/

namespace Sys2Proof

/-! ## The light opcodes -/

/-- The lamp level a warning-light instruction drives; none for every other instruction (42_warning_light.md R100, R101). -/
def Instr.light? : Instr → Option Bool
  | .wlon => some true
  | .wloff => some false
  | _ => none

/-- No opcode of format C stands for a light instruction (30_encoding.md R56). -/
theorem light?_decodeConfig (cfg : Config) (wl : Bool) (code : Code) : (decodeConfig cfg wl code).light? = none := by
  rcases decodeConfig_cases cfg wl code with
    ⟨-, h⟩ | ⟨-, h⟩ | ⟨-, h⟩ | ⟨-, h⟩ | ⟨-, h⟩ | ⟨-, h⟩ | ⟨-, h⟩ | ⟨-, h⟩ | ⟨-, h⟩ | ⟨-, h⟩ | ⟨-, h⟩ | ⟨-, h⟩ |
      ⟨-, h⟩ | ⟨-, h⟩ | ⟨_, -, h⟩ | ⟨-, h⟩ <;> rw [h] <;> rfl

/-- A selection is no light instruction. -/
theorem light?_decodeSelect (wl : Bool) (bus : BusField) (idx : IdxField) : (decodeSelect wl bus idx).light? = none := by
  unfold decodeSelect
  split_ifs <;> rfl

/-- The light instructions are the two exact patterns, bit 7 included (30_encoding.md R55, R56). -/
theorem light?_decodeOpcode (cfg : Config) (op : Opcode) :
    (decodeOpcode cfg op).light? = if op = 0xFF then some true else if op = 0x7F then some false else none := by
  unfold decodeOpcode
  split_ifs
  · rfl
  · rfl
  · exact light?_decodeSelect ..
  · exact light?_decodeConfig ..

end Sys2Proof

namespace Sys2Proof.Machine

/-! ## How a dispatch rewrites STATUS -/

/-- The ways a dispatch may rewrite STATUS, by the lamp level its instruction drives: a light instruction writes bit 7, any
other keeps STATUS or records a masked opcode in bits 6-0 (10_state.md R12, R13). -/
inductive StatusWrite : Option Bool → (Byte → Byte) → Prop where
  | keep : StatusWrite none id
  | record (m : Opcode) : StatusWrite none (recordLast m)
  | light (level : Bool) : StatusWrite (some level) (setWl level)

/-- Bit 7 is written by the light instructions only (10_state.md R12). -/
theorem StatusWrite.wlOf_eq {light : Option Bool} {f : Byte → Byte} (h : StatusWrite light f) (v : Byte) :
    wlOf (f v) = light.getD (wlOf v) := by
  cases h <;> simp

/-- An operation's result does not depend on STATUS but for STATUS itself, which it rewrites as no light instruction does. -/
def RewritesStatusOnly (act : State → State) (s : State) : Prop :=
  ∃ f, StatusWrite none f ∧ ∀ v, act (s.putStatus v) = (act s).putStatus (f v)

/-- An instruction's answer does not depend on STATUS but for STATUS itself, which a next state has as `StatusWrite` says. -/
def DispatchRewritesStatusOnly (i : Instr) (s : State) : Prop :=
  (∃ r, ∀ v, exec i (s.putStatus v) = .refused r) ∨
    ∃ t f, StatusWrite i.light? f ∧ exec i s = .next t ∧ ∀ v, exec i (s.putStatus v) = .next (t.putStatus (f v))

/-- An instruction that acts by such an operation, begun where its step 1 ends, answers so. -/
theorem RewritesStatusOnly.dispatch {i : Instr} {act : State → State} {s u : State} (h : RewritesStatusOnly act u)
    (hl : i.light? = none) (hs : exec i s = .next (act u)) (hv : ∀ v, exec i (s.putStatus v) = .next (act (u.putStatus v))) :
    DispatchRewritesStatusOnly i s := by
  obtain ⟨f, hf, he⟩ := h
  exact .inr ⟨act u, f, hl ▸ hf, hs, fun v => by rw [hv, he]⟩

/-- One round of INIT's loop keeps STATUS or records the sleep code (43_config.md R113). -/
theorem initRound_rewritesStatusOnly (op : Opcode) (s : State) : RewritesStatusOnly (initRound op) s := by
  have hn : ∀ v, nextInit (s.putStatus v) = nextInit s := fun _ => rfl
  cases h : nextInit s
  · exact ⟨id, .keep, fun v => by simp only [initRound, hn, h]; rfl⟩
  · exact ⟨_, .record (formatC false s.cfg.opcSleep), fun v => by simp only [initRound, hn, h]; rfl⟩

/-- The as-built checks pass STATUS through (43_config.md R119). -/
theorem fallthroughChecks_putStatus (slot : Nat) (s : State) (v : Byte) :
    fallthroughChecks slot (s.putStatus v) = (fallthroughChecks slot s).putStatus v := by
  by_cases h2 : slot = 1 ∧ Config.freeSlot2Check s.draws = true <;> by_cases h3 : slot < 3 <;>
    simp only [fallthroughChecks, State.putStatus_draws, h2, h3] <;> rfl

/-- A report made only where the HAL answers that the base controller is active keeps STATUS, where the report itself passes
it through (43_config.md R107, R109). -/
theorem reportIfActive_rewritesStatusOnly {report : State → State}
    (hr : ∀ u v, report (u.putStatus v) = (report u).putStatus v) (s : State) :
    RewritesStatusOnly
      (fun u => endCycle (if nextIsBaseActive u then report (halIsBaseActive u) else halIsBaseActive u)) s := by
  have ha : ∀ v, nextIsBaseActive (s.putStatus v) = nextIsBaseActive s := fun _ => rfl
  have hq : ∀ v, halIsBaseActive (s.putStatus v) = (halIsBaseActive s).putStatus v := fun _ => rfl
  refine ⟨id, .keep, fun v => ?_⟩
  simp only [ha, hq, hr]
  split <;> rfl

/-- A check-24V writes STATUS as built through INIT's round only (43_config.md R110 to R112, R119). -/
theorem check24VAction_rewritesStatusOnly (slot : Nat) (op : Opcode) (s : State) :
    RewritesStatusOnly (check24VAction slot op) s := by
  cases hb : s.cfg.chk24vFallthrough
  · exact ⟨id, .keep, fun v => by simp only [check24VAction, State.putStatus_cfg, hb]; rfl⟩
  · obtain ⟨f, hf, he⟩ := initRound_rewritesStatusOnly op (fallthroughChecks slot (halCheck24V slot s))
    refine ⟨f, hf, fun v => ?_⟩
    have hq : halCheck24V slot (s.putStatus v) = (halCheck24V slot s).putStatus v := rfl
    simp only [check24VAction, State.putStatus_cfg, hb, if_true, hq, fallthroughChecks_putStatus, he]

/-- A selection records its masked opcode or keeps STATUS (44_selection.md R130). -/
theorem selectInstr_rewritesStatusOnly (i : Instr) (bus : BusField) (idx : IdxField) (s : State) :
    RewritesStatusOnly (selectInstr i bus idx) s := by
  have hcfg : ∀ u : State, (echoStep i u).cfg = u.cfg := fun _ => rfl
  cases hw : selectionChannels s.cfg bus idx with
  | some channels =>
    exact ⟨_, .record (encodeOpcode s.cfg i), fun v => by
      simp only [selectInstr, selectAction, hcfg, State.putStatus_cfg, hw]; rfl⟩
  | none =>
    cases hu : s.cfg.unwiredUpdatesStatus
    · exact ⟨id, .keep, fun v => by
        simp only [selectInstr, selectAction, hcfg, State.putStatus_cfg, hw, hu]; rfl⟩
    · exact ⟨_, .record (encodeOpcode s.cfg i), fun v => by
        simp only [selectInstr, selectAction, hcfg, State.putStatus_cfg, hw, hu]; rfl⟩

/-- What every instruction but QSTAT does with STATUS, arm by arm (10_state.md R12 to R14). -/
theorem exec_dispatchRewritesStatusOnly (i : Instr) (s : State) (h0 : i ≠ .qstat false) (h1 : i ≠ .qstat true) :
    DispatchRewritesStatusOnly i s := by
  match i with
  | .wlon | .wloff => exact .inr ⟨_, _, .light _, rfl, fun _ => rfl⟩
  | .sleep wl => exact .inr ⟨_, _, .record (encodeOpcode s.cfg (.sleep wl)), rfl, fun _ => rfl⟩
  | .disable wl => exact .inr ⟨_, _, .record (encodeOpcode s.cfg (.disable wl)), rfl, fun _ => rfl⟩
  | .techo _ | .baseact _ | .unrec _ _ => exact .inr ⟨_, _, .keep, rfl, fun _ => rfl⟩
  | .fwver wl =>
    exact (reportIfActive_rewritesStatusOnly (report := fun u => tx (.fwVersion (nextFwVersion u)) (halGetFwVersion u))
      (fun _ _ => rfl) (echoStep (.fwver wl) s)).dispatch rfl rfl fun _ => rfl
  | .prmod wl =>
    exact (reportIfActive_rewritesStatusOnly (report := halPrintModules) (fun _ _ => rfl)
      (echoStep (.prmod wl) s)).dispatch rfl rfl fun _ => rfl
  | .chk24v1 _ | .chk24v2 _ | .chk24v3 _ =>
    exact (check24VAction_rewritesStatusOnly _ _ (echoStep _ s)).dispatch rfl rfl fun _ => rfl
  | .init wl => exact (initRound_rewritesStatusOnly _ (echoStep (.init wl) s)).dispatch rfl rfl fun _ => rfl
  | .qstat false => exact absurd rfl h0
  | .qstat true => exact absurd rfl h1
  | .rdstat1 _ | .rdstat2 _ | .rdstat3 _ | .rdstatFurther _ _ => exact .inl ⟨_, fun _ => rfl⟩
  | .selEms1 _ | .selEms2 _ | .selEms3 _ | .selEms4 _ | .selDfs1 _ | .selDfs2 _ | .selDfs3 _ | .selDfs4 _ | .sel _ _ _ =>
    exact (selectInstr_rewritesStatusOnly _ _ _ s).dispatch rfl rfl fun _ => rfl

/-- QSTAT reports STATUS as it stands, as the last event, and leaves it (43_config.md R115). -/
theorem exec_qstat_status {wl : Bool} {s t : State} (h : exec (.qstat wl) s = .next t) :
    t.status = s.status ∧ t.trace.getLast? = some (.tx (.status s.status)) := by
  cases h
  exact ⟨rfl, by simp [endCycle, tx_eq]⟩

/-- What a dispatch writes to STATUS (10_state.md R12 to R14). -/
theorem exec_statusWrite {i : Instr} {s t : State} (h : exec i s = .next t) :
    ∃ f, StatusWrite i.light? f ∧ t.status = f s.status := by
  by_cases hq : i = .qstat false ∨ i = .qstat true
  · rcases hq with rfl | rfl <;> exact ⟨id, .keep, (exec_qstat_status h).1⟩
  · obtain ⟨h0, h1⟩ := not_or.1 hq
    rcases exec_dispatchRewritesStatusOnly i s h0 h1 with ⟨r, hr⟩ | ⟨u, f, hf, -, hu⟩
    · cases h.symm.trans (hr s.status)
    · cases h.symm.trans (hu s.status)
      exact ⟨f, hf, rfl⟩

/-- A dispatch writes bit 7 of STATUS for the light instructions only (10_state.md R12). -/
theorem exec_wlOf {i : Instr} {s t : State} (h : exec i s = .next t) :
    wlOf t.status = i.light?.getD (wlOf s.status) := by
  obtain ⟨f, hf, he⟩ := exec_statusWrite h
  rw [he, hf.wlOf_eq]

/-- Settles O38: every answer but QSTAT's is the same whatever STATUS holds, STATUS itself excepted. -/
theorem statusSteersNothing : Obligations.StatusSteersNothing := by
  refine ⟨fun i s v h0 h1 => ?_, fun s t wl h => exec_qstat_status h⟩
  rcases exec_dispatchRewritesStatusOnly i s h0 h1 with ⟨r, hr⟩ | ⟨u, f, -, hu, hv⟩
  · have hs : exec i s = .refused r := hr s.status
    refine ⟨fun r' h => ?_, fun t h => ?_⟩
    · cases hs.symm.trans h
      exact hr v
    · cases hs.symm.trans h
  · refine ⟨fun r h => ?_, fun t h => ?_⟩
    · cases hu.symm.trans h
    · cases hu.symm.trans h
      exact ⟨f v, hv v⟩

/-! ## What a step does with STATUS -/

/-- Where another agent than the core is scheduled, no opcode is fetched (40_decoder.md R81). -/
theorem fetchedOpcode_of_not_coreActs {s : State} (h : ¬ s.CoreActs) : fetchedOpcode s = none :=
  if_neg h

/-- Where the core begins or goes on with a read, the opcode fetched is the one of the line it completes. -/
theorem fetchedOpcode_of_read {s : State} {line : List Byte} (h : s.CoreActs)
    (hc : s.control = .polling ∧ line = [] ∨ s.control = .reading line) : fetchedOpcode s = lineOpcode line s.rx := by
  rw [fetchedOpcode, if_pos h]
  rcases hc with ⟨hc, rfl⟩ | hc <;> simp only [hc]

/-- No opcode is fetched in a drain or in INIT's loop. -/
theorem fetchedOpcode_of_no_read {s : State} (hp : s.control ≠ .polling) (hr : ∀ line, s.control ≠ .reading line) :
    fetchedOpcode s = none := by
  unfold fetchedOpcode
  split
  · cases hc : s.control with
    | polling => exact absurd hc hp
    | reading line => exact absurd hc (hr line)
    | draining => rfl
    | initPolling op => rfl
  · rfl

/-- A step that answers a next state dispatches the opcode it fetches, makes a round of INIT's loop, or leaves the
configuration, STATUS and ECHO as they are (40_decoder.md R81, R82; 43_config.md R113). -/
theorem step_next_cases {s t : State} (h : step s = .next t) :
    (∃ op rest, fetchedOpcode s = some op ∧
        exec (decodeOpcode s.cfg op) { s with rx := rest, control := .polling, schedule := s.schedule.tail } = .next t) ∨
      (∃ op, fetchedOpcode s = none ∧ s.CoreActs ∧ s.control = .initPolling op ∧
        t = initRound op (s.putSchedule s.schedule.tail)) ∨
      (fetchedOpcode s = none ∧ t.cfg = s.cfg ∧ t.status = s.status ∧ t.echo = s.echo) := by
  rcases step_cases s h with ⟨bytes, moves, hs, ht⟩ | ⟨moves, hs, ht⟩ | ⟨hs, hw, ht⟩ | ⟨ha, -, hm⟩
  case inl =>
    refine .inr (.inr ⟨fetchedOpcode_of_not_coreActs (by simp [State.CoreActs, hs]), ?_⟩)
    rcases hostSend_cases (s.putSchedule moves) bytes with ⟨-, he⟩ | ⟨-, he⟩ <;> cases ht.trans he
    exact ⟨rfl, rfl, rfl⟩
  case inr.inl =>
    refine .inr (.inr ⟨fetchedOpcode_of_not_coreActs (by simp [State.CoreActs, hs]), ?_⟩)
    cases ht
    rcases timeoutMove_cases (s.putSchedule moves) with ⟨-, he⟩ | ⟨-, he⟩ <;> rw [he] <;> exact ⟨rfl, rfl, rfl⟩
  case inr.inr.inl =>
    obtain ⟨⟨line, hc⟩, hrx⟩ := (waiting_iff s).1 hw
    cases ht
    exact .inr (.inr ⟨by rw [fetchedOpcode_of_read (.inl hs) (.inr hc), hrx]; rfl, rfl, rfl, rfl⟩)
  case inr.inr.inr =>
    rcases coreMove_cases _ hm with ⟨hc, hrx, ht⟩ | ⟨line, hc, hg⟩ | ⟨hc, ht⟩ | ⟨op, hc, ht⟩
    case inl =>
      replace hrx : s.rx = [] := hrx
      cases ht
      exact .inr (.inr ⟨by rw [fetchedOpcode_of_read ha (.inl ⟨hc, rfl⟩), hrx]; rfl, rfl, rfl, rfl⟩)
    case inr.inl =>
      have hf := fetchedOpcode_of_read ha hc
      rcases goOnReading_cases line _ hg with
        ⟨got, rest, op, hl, hp, ht⟩ | ⟨got, rest, hl, hp, ht⟩ | ⟨rest, hl, ht⟩ | ⟨got, hl, ht⟩ <;>
        rw [State.putSchedule_rx] at hl <;> simp only [lineOpcode, hl] at hf
      case inl => exact .inl ⟨op, rest, hf.trans hp, ht.symm⟩
      case inr.inl =>
        cases ht
        exact .inr (.inr ⟨hf.trans hp, rfl, rfl, rfl⟩)
      case inr.inr.inl =>
        cases ht
        exact .inr (.inr ⟨hf, rfl, rfl, rfl⟩)
      case inr.inr.inr =>
        cases ht
        exact .inr (.inr ⟨hf, rfl, rfl, rfl⟩)
    case inr.inr.inl =>
      rw [State.putSchedule_control] at hc
      cases ht
      exact .inr (.inr ⟨fetchedOpcode_of_no_read (by simp [hc]) (by simp [hc]), rfl, rfl, rfl⟩)
    case inr.inr.inr =>
      rw [State.putSchedule_control] at hc
      cases ht
      exact .inr (.inl ⟨op, fetchedOpcode_of_no_read (by simp [hc]) (by simp [hc]), ha, hc, rfl⟩)

/-- A step writes bit 7 of STATUS where it dispatches a light pattern, and nowhere else (10_state.md R12). -/
theorem step_wlOf {s t : State} (h : step s = .next t) :
    wlOf t.status =
      if fetchedOpcode s = some 0xFF then true else if fetchedOpcode s = some 0x7F then false else wlOf s.status := by
  rcases step_next_cases h with ⟨op, rest, hf, he⟩ | ⟨op, hf, -, -, rfl⟩ | ⟨hf, -, hst, -⟩
  · rw [exec_wlOf he, light?_decodeOpcode, hf]
    simp only [Option.some.injEq]
    split_ifs <;> rfl
  · rcases initRound_cases (s.putSchedule s.schedule.tail) op with ⟨-, he⟩ | ⟨-, he⟩ <;> simp [he, hf]
  · simp [hf, hst]

/-- Settles O35: a dispatch writes bit 7 for 0xFF and 0x7F only, and nothing else a step does writes it. -/
theorem lightBitIsWrittenByTheLightOpcodesOnly : Obligations.LightBitIsWrittenByTheLightOpcodesOnly := by
  intro s t h
  rw [step_wlOf h]
  exact ⟨fun hf => if_pos hf, fun hf => by rw [hf]; rfl, fun h0 h1 => by rw [if_neg h0, if_neg h1]⟩

/-! ## ECHO after reset -/

/-- Settles O52: power-up clears ECHO under every configuration, the default one of reset included. -/
theorem echoStartsFalse : Obligations.EchoStartsFalse :=
  ⟨rfl, fun _ => rfl⟩

end Sys2Proof.Machine
end

section
/-! PROOFS. 40_decoder.md: a read that fails drains RX and reports (R73), and the decoder touches neither STATUS nor ECHO
(R82). -/

namespace Sys2Proof

/-! ## What a read phase leaves in RX -/

/-- The bytes a read phase leaves in RX (40_decoder.md R71 to R73). -/
def ReadEnd.left : ReadEnd → List Byte
  | .complete _ rest => rest
  | .full rest => rest
  | .starved _ => []

/-- A read phase takes bytes from the head of RX only (40_decoder.md R71). -/
theorem left_readLine_suffix (line pending : List Byte) : (readLine line pending).left <:+ pending := by
  induction pending generalizing line with
  | nil => exact List.suffix_rfl
  | cons b rest ih =>
    unfold readLine
    split_ifs
    · exact List.suffix_cons b rest
    · exact List.suffix_cons b rest
    · exact (ih _).trans (List.suffix_cons b rest)

end Sys2Proof

namespace Sys2Proof.Machine

/-! ## The moves of a read and a drain, case by case -/

/-- A complete read is dispatched at the top of the loop, with its bytes gone (40_decoder.md R72). -/
theorem goOnReading_complete {s : State} {line got rest : List Byte} (h : readLine line s.rx = .complete got rest) :
    goOnReading line s = dispatchLine got ((s.putRx rest).putControl .polling) := by
  rw [goOnReading, h]

/-- A full buffer without LF goes on to the drain, with its bytes gone (40_decoder.md R73). -/
theorem goOnReading_full {s : State} {line rest : List Byte} (h : readLine line s.rx = .full rest) :
    goOnReading line s = .next ((s.putRx rest).putControl .draining) := by
  rw [goOnReading, h]

/-- A read that finds RX empty waits (40_decoder.md R71, R78). -/
theorem goOnReading_starved {s : State} {line got : List Byte} (h : readLine line s.rx = .starved got) :
    goOnReading line s = .next ((s.putRx []).putControl (.reading got)) := by
  rw [goOnReading, h]

/-- A complete line without digits is NotANumber (40_decoder.md R75). -/
theorem dispatchLine_notANumber {line : List Byte} (h : parseLine line = none) (s : State) :
    dispatchLine line s = .next (takeError .notANumber s) := by
  rw [dispatchLine, h]

/-- With no input the core idles at the top of the loop (40_decoder.md R70). -/
theorem coreMove_idle {s : State} (hc : s.control = .polling) (hr : s.rx = []) : coreMove s = .next s := by
  simp [coreMove, hc, rxAvail, hr]

/-- With input the core begins a read at the top of the loop (40_decoder.md R70). -/
theorem coreMove_polling {s : State} (hc : s.control = .polling) (hr : s.rx ≠ []) :
    coreMove s = goOnReading [] s := by
  simp [coreMove, hc, rxAvail, hr]

/-- Inside a read the core goes on with it (40_decoder.md R71). -/
theorem coreMove_reading {s : State} {line : List Byte} (hc : s.control = .reading line) :
    coreMove s = goOnReading line s := by
  simp only [coreMove, hc]

/-- After a failed read the core drains RX and reports (40_decoder.md R73). -/
theorem coreMove_draining {s : State} (hc : s.control = .draining) :
    coreMove s = .next (takeError .framingError (rxDrain s)) := by
  simp only [coreMove, hc]

/-! ## The step, by who acts next -/

/-- The host acts where its bytes are scheduled (20_memory.md R32). -/
theorem step_hostSends {s : State} {bytes : List Byte} {moves : List Move} (h : s.schedule = .hostSends bytes :: moves) :
    step s = hostSend bytes (s.putSchedule moves) := by
  simp only [step, nextMove, h]

/-- The timeout acts where it is scheduled (20_memory.md R32). -/
theorem step_timeout {s : State} {moves : List Move} (h : s.schedule = .timeout :: moves) :
    step s = .next (timeoutMove (s.putSchedule moves)) := by
  simp only [step, nextMove, h]

/-- With nothing scheduled a wait on an empty RX is over (40_decoder.md R78). -/
theorem step_waitOver {s : State} (hs : s.schedule = []) (hw : waiting s = true) :
    step s = .next (s.putControl .draining) := by
  simp only [step, nextMove, hs, defaultMove, hw, if_true, timeoutMove]

/-- Where the core acts, a wait included unless it is over, the step is the core's move. -/
theorem step_eq_coreMove {s : State} (ha : s.CoreActs) (hw : ¬ (s.schedule = [] ∧ waiting s = true)) :
    step s = coreMove (s.putSchedule s.schedule.tail) := by
  rcases step_cases s rfl with ⟨bytes, moves, hs, -⟩ | ⟨moves, hs, -⟩ | ⟨hs, hw', -⟩ | ⟨-, -, hm⟩
  · simp [State.CoreActs, hs] at ha
  · simp [State.CoreActs, hs] at ha
  · exact absurd ⟨hs, hw'⟩ hw
  · exact hm.symm

/-! ## A failed read -/

/-- Ten bytes without LF end the read that begins with them (40_decoder.md R73). -/
theorem step_fullLine {s : State} {first rest : List Byte} (hc : s.control = .polling) (ha : s.CoreActs)
    (hlen : first.length = nLine) (hlf : asciiLf ∉ first) (hrx : s.rx = first ++ rest) :
    step s = .next { s with rx := rest, schedule := s.schedule.tail, control := .draining } := by
  have hne : first ≠ [] := List.ne_nil_of_length_pos (by simp [hlen, nLine])
  have hread : readLine [] s.rx = .full rest := by
    rw [hrx]
    exact readLine_full first rest [] (by simpa using hlen) hne hlf
  rw [step_polling ha hc (by simp [hrx, hne])]
  exact goOnReading_full hread

/-- The timeout ends a wait on an empty RX, and the read with it (40_decoder.md R73). -/
theorem step_timeout_waiting {s : State} {line : List Byte} {moves : List Move} (hc : s.control = .reading line)
    (hrx : s.rx = []) (hs : s.schedule = .timeout :: moves) :
    step s = .next { s with schedule := moves, control := .draining } := by
  have hw : waiting (s.putSchedule moves) = true := (waiting_iff _).2 ⟨⟨line, hc⟩, hrx⟩
  rw [step_timeout hs, timeoutMove, if_pos hw]
  rfl

/-- The step after a failed read removes every pending byte and sends one message (40_decoder.md R73). -/
theorem step_draining {s : State} (hc : s.control = .draining) (ha : s.CoreActs) :
    step s = .next { s with rx := [], schedule := s.schedule.tail, control := .polling,
                            trace := s.trace ++ [.tx .framingError] } := by
  rw [step_coreActs ha (by simp [waiting, hc])]
  exact coreMove_draining hc

/-- Settles O8: each way a read fails leads to the drain, and the drain to one message; in R73's example one after the
other. -/
theorem framingErrorDrainsAndReports : Obligations.FramingErrorDrainsAndReports := by
  refine ⟨fun s first rest hc ha hlen hlf hrx => step_fullLine hc ha hlen hlf hrx,
    fun s line moves hc hrx hs => step_timeout_waiting hc hrx hs, fun s hc ha => step_draining hc ha,
    fun s hc hs hrx => ?_⟩
  have hfull := step_fullLine (first := [0x30, 0x31, 0x30, 0x30, 0x30, 0x30, 0x30, 0x31, 0x30, 0x30])
    (rest := [0x0D, 0x0A]) hc (.inl hs) rfl (by decide) hrx
  rw [runSteps_next hfull, runSteps_one, step_draining rfl (.inl (by simp [hs]))]
  simp [hs, hc]

/-! ## The decoder's frame -/

/-- What a move of the decoder may do from `s` to `t`: change RX, the control path, the schedule and the trace alone, send at
most one error message, and all that whatever STATUS and ECHO hold (40_decoder.md R82). -/
structure DecoderMove (move : State → Result) (s t : State) : Prop where
  frame : t = { s with rx := t.rx, control := t.control, schedule := t.schedule, trace := t.trace }
  message : t.trace = s.trace ∨ t.trace = s.trace ++ [.tx .framingError] ∨ t.trace = s.trace ++ [.tx .notANumber]
  anyFlags : ∀ v e, move { s with status := v, echo := e } = .next { t with status := v, echo := e }

/-- A move that is another one, begun with a schedule of its own, is the decoder's when the other is. -/
theorem DecoderMove.of_putSchedule {move move' : State → Result} {s t : State} {moves : List Move}
    (h : DecoderMove move (s.putSchedule moves) t)
    (hm : ∀ v e, move' { s with status := v, echo := e } = move { s with schedule := moves, status := v, echo := e }) :
    DecoderMove move' s t :=
  ⟨h.frame, h.message, fun v e => (hm v e).trans (h.anyFlags v e)⟩

/-- The host's append touches RX alone (20_memory.md R32). -/
theorem hostSend_decoderMove {bytes : List Byte} {s t : State} (h : hostSend bytes s = .next t) :
    DecoderMove (hostSend bytes) s t := by
  rcases hostSend_cases s bytes with ⟨hcap, he⟩ | ⟨-, he⟩ <;> cases h.symm.trans he
  exact ⟨rfl, .inl rfl, fun v e => if_neg (ne_true_of_eq_false hcap)⟩

/-- The timeout touches the control path alone (40_decoder.md R73). -/
theorem timeoutMove_decoderMove (s : State) : DecoderMove (fun u => .next (timeoutMove u)) s (timeoutMove s) := by
  have hw : ∀ v e, waiting { s with status := v, echo := e } = waiting s := fun _ _ => rfl
  rcases timeoutMove_cases s with ⟨h, he⟩ | ⟨h, he⟩ <;> rw [he] <;>
    exact ⟨rfl, .inl rfl, fun v e => by simp only [timeoutMove, hw, h]; rfl⟩

/-- Going on with a read that dispatches nothing is the decoder's, and takes bytes from the head of RX (40_decoder.md R71 to
R75). -/
theorem goOnReading_decoderMove {line : List Byte} {s t : State} (h : goOnReading line s = .next t)
    (hn : lineOpcode line s.rx = none) : DecoderMove (goOnReading line) s t ∧ t.rx <:+ s.rx := by
  have hleft := left_readLine_suffix line s.rx
  unfold lineOpcode at hn
  cases hl : readLine line s.rx with
  | complete got rest =>
    rw [hl] at hn hleft
    rw [goOnReading_complete hl, dispatchLine_notANumber hn] at h
    cases h
    refine ⟨⟨rfl, .inr (.inr rfl), fun v e => ?_⟩, hleft⟩
    rw [goOnReading_complete (s := { s with status := v, echo := e }) hl, dispatchLine_notANumber hn]
    rfl
  | full rest =>
    rw [hl] at hleft
    rw [goOnReading_full hl] at h
    cases h
    exact ⟨⟨rfl, .inl rfl, fun v e => goOnReading_full hl⟩, hleft⟩
  | starved got =>
    rw [hl] at hleft
    rw [goOnReading_starved hl] at h
    cases h
    exact ⟨⟨rfl, .inl rfl, fun v e => goOnReading_starved hl⟩, hleft⟩

/-- A core move that completes no line with digits and is not in INIT's loop is the decoder's, and takes bytes from the head
of RX (40_decoder.md R70 to R75). -/
theorem coreMove_decoderMove {s t : State} (h : coreMove s = .next t)
    (hn : ∀ line, s.control = .polling ∧ line = [] ∨ s.control = .reading line → lineOpcode line s.rx = none)
    (hi : ∀ op, s.control ≠ .initPolling op) : DecoderMove coreMove s t ∧ t.rx <:+ s.rx := by
  cases hc : s.control with
  | polling =>
    by_cases hrx : s.rx = []
    · rw [coreMove_idle hc hrx] at h
      cases h
      exact ⟨⟨rfl, .inl rfl, fun v e => coreMove_idle hc hrx⟩, List.suffix_rfl⟩
    · rw [coreMove_polling hc hrx] at h
      obtain ⟨hd, hleft⟩ := goOnReading_decoderMove h (hn _ (.inl ⟨hc, rfl⟩))
      exact ⟨hd.of_putSchedule (moves := s.schedule) fun v e => coreMove_polling hc hrx, hleft⟩
  | reading line =>
    rw [coreMove_reading hc] at h
    obtain ⟨hd, hleft⟩ := goOnReading_decoderMove h (hn _ (.inr hc))
    exact ⟨hd.of_putSchedule (moves := s.schedule) fun v e => coreMove_reading hc, hleft⟩
  | draining =>
    rw [coreMove_draining hc] at h
    cases h
    exact ⟨⟨rfl, .inr (.inl rfl), fun v e => coreMove_draining hc⟩, List.nil_suffix⟩
  | initPolling op => exact absurd hc (hi op)

/-- A step that dispatches nothing and is not in INIT's loop is the decoder's; where the core acts, it takes bytes from the
head of RX (40_decoder.md R82). -/
theorem step_decoderMove {s t : State} (h : step s = .next t) (hf : fetchedOpcode s = none)
    (hi : ∀ op, s.control ≠ .initPolling op) : DecoderMove step s t ∧ (s.CoreActs → t.rx <:+ s.rx) := by
  rcases step_cases s h with ⟨bytes, moves, hs, ht⟩ | ⟨moves, hs, ht⟩ | ⟨hs, hw, ht⟩ | ⟨ha, hw, hm⟩
  case inl =>
    exact ⟨(hostSend_decoderMove ht.symm).of_putSchedule fun v e => step_hostSends hs,
      fun ha => absurd ha (by simp [State.CoreActs, hs])⟩
  case inr.inl =>
    cases ht
    exact ⟨(timeoutMove_decoderMove _).of_putSchedule fun v e => step_timeout hs,
      fun ha => absurd ha (by simp [State.CoreActs, hs])⟩
  case inr.inr.inl =>
    cases ht
    exact ⟨⟨rfl, .inl rfl, fun v e => step_waitOver hs hw⟩, fun _ => List.suffix_rfl⟩
  case inr.inr.inr =>
    obtain ⟨hd, hleft⟩ := coreMove_decoderMove hm (fun line hc => (fetchedOpcode_of_read ha hc).symm.trans hf) hi
    exact ⟨hd.of_putSchedule fun v e => step_eq_coreMove ha hw, fun _ => hleft⟩

/-- Settles O43: every step that dispatches nothing and is not in INIT's loop is a move of the decoder. -/
theorem decoderTouchesNoState : Obligations.DecoderTouchesNoState := by
  intro s t h hf hi
  obtain ⟨⟨frame, message, anyFlags⟩, hleft⟩ := step_decoderMove h hf hi
  exact ⟨by rw [frame], by rw [frame], by rw [frame], by rw [frame], by rw [frame], message, anyFlags,
    fun ha => (hleft ha).imp fun _ => Eq.symm⟩

end Sys2Proof.Machine
end

section
/-! PROOFS. 41_dispatch.md: which opcodes are unrecognized, and what their dispatch does (R95). -/

namespace Sys2Proof

/-! ## The unrecognized opcodes -/

/-- A code that is no member of the enumeration passes every comparison and is unrecognized (41_dispatch.md R95). -/
theorem decodeConfig_of_notMem_enumeration {cfg : Config} {code : Code} (h : code ∉ cfg.enumeration) (wl : Bool) :
    decodeConfig cfg wl code = .unrec wl code := by
  simp only [Config.enumeration, List.mem_append, List.mem_cons, List.not_mem_nil, or_false, not_or] at h
  obtain ⟨named, readStatus⟩ := h
  simp only [decodeConfig, named, if_false, decodeReadStatus, List.idxOf?_eq_none_iff.2 readStatus]

/-- A format-C code is unrecognized, with its own bit 7 and code, where it is no member of the enumeration and nowhere else
(41_dispatch.md R95). -/
theorem decodeConfig_eq_unrec_iff {cfg : Config} {wl wl' : Bool} {code code' : Code} :
    decodeConfig cfg wl code = .unrec wl' code' ↔ (wl = wl' ∧ code = code') ∧ code ∉ cfg.enumeration := by
  constructor
  · intro h
    rcases decodeConfig_cases cfg wl code with
      ⟨-, he⟩ | ⟨-, he⟩ | ⟨-, he⟩ | ⟨-, he⟩ | ⟨-, he⟩ | ⟨-, he⟩ | ⟨-, he⟩ | ⟨-, he⟩ | ⟨-, he⟩ | ⟨-, he⟩ | ⟨-, he⟩ |
        ⟨-, he⟩ | ⟨-, he⟩ | ⟨-, he⟩ | ⟨_, -, he⟩ | ⟨hn, he⟩ <;> cases he.symm.trans h
    exact ⟨⟨rfl, rfl⟩, hn⟩
  · rintro ⟨⟨rfl, rfl⟩, hn⟩
    exact decodeConfig_of_notMem_enumeration hn wl

/-- No selection is unrecognized (41_dispatch.md R94). -/
theorem decodeSelect_ne_unrec (wl : Bool) (bus : BusField) (idx : IdxField) (wl' : Bool) (code : Code) :
    decodeSelect wl bus idx ≠ .unrec wl' code := by
  unfold decodeSelect
  split_ifs <;> nofun

/-- The unrecognized opcodes are the format-C opcodes whose code is no member of the enumeration (30_encoding.md R56;
41_dispatch.md R95). -/
theorem decodeOpcode_eq_unrec_iff {cfg : Config} {op : Opcode} {wl : Bool} {code : Code} :
    decodeOpcode cfg op = .unrec wl code ↔ op = formatC wl code ∧ code ∉ cfg.enumeration := by
  constructor
  · intro h
    rcases opcode_cases op with rfl | rfl | ⟨wl', code', rfl⟩ | ⟨wl', bus, idx, hne, rfl⟩
    · cases h
    · cases h
    · rw [decodeOpcode_formatC, decodeConfig_eq_unrec_iff] at h
      obtain ⟨⟨rfl, rfl⟩, hn⟩ := h
      exact ⟨rfl, hn⟩
    · rw [decodeOpcode_formatS cfg wl' bus idx hne] at h
      exact absurd h (decodeSelect_ne_unrec wl' bus idx wl code)
  · rintro ⟨rfl, hn⟩
    rw [decodeOpcode_formatC]
    exact decodeConfig_of_notMem_enumeration hn wl

end Sys2Proof

namespace Sys2Proof.Machine

/-- An unrecognized opcode is echoed as step 1 says, then reported with its raw value, and ends its cycle: nothing else
(41_dispatch.md R95; 60_exceptions.md R164). -/
theorem exec_unrec (wl : Bool) (code : Code) (s : State) :
    exec (.unrec wl code) s = .next { s with
      control := .polling
      trace := s.trace ++ echoEvents s (formatC wl code) ++ [.tx (.unrecognized (formatC wl code))] } := rfl

/-- Settles O34: the unrecognized opcodes are the format-C opcodes outside the enumeration, and their one meaning echoes and
reports. -/
theorem unrecognizedOpcodeIsReportedOnly : Obligations.UnrecognizedOpcodeIsReportedOnly := by
  refine ⟨fun s op hsel hn => ?_, fun s wl code => exec_unrec wl code s, fun cfg op wl code h => ?_, fun cfg hcodes => ?_⟩
  · have hop : formatC (wlField op) (codeField op) = op := formatC_fields op hsel
    rw [decodeOpcode_eq_unrec_iff.2 ⟨hop.symm, hn⟩, exec_unrec, hop]
  · obtain ⟨rfl, hn⟩ := decodeOpcode_eq_unrec_iff.1 h
    exact ⟨selField_formatC wl code, codeField_formatC wl code, hn⟩
  · obtain ⟨-, h28⟩ := hcodes
    exact decodeOpcode_eq_unrec_iff.2 ⟨rfl, h28⟩

end Sys2Proof.Machine
end

section
/-! PROOFS. 42_warning_light.md: the opcodes, the lines and the meaning of WLON and WLOFF (R100, R101). -/

namespace Sys2Proof

/-! ## From a line to a light instruction -/

/-- The canonical line of an opcode decodes to that opcode's instruction and leaves the bytes behind it (30_encoding.md R50;
40_decoder.md R80). -/
theorem decode_lineOf_append (cfg : Config) (op : Opcode) (rest : List Byte) :
    decode cfg (lineOf op ++ rest) = .ok (decodeOpcode cfg op, rest) := by
  have hread : readLine [] (lineOf op ++ rest) = .complete (lineOf op) rest := by
    refine readLine_complete ((lineOf op).take 9) rest [] (by simp [lineOf, nLine]) ?_
    simp only [lineOf, List.take_succ_cons, List.take_zero, List.mem_cons, (digitByte_ne_lf _).symm, List.not_mem_nil,
      false_or, or_false]
    decide
  simp only [decode, decodeBytes, hread, parseLine_lineOf]

/-- WLON alone drives the lamp on. -/
theorem light?_eq_some_true_iff {i : Instr} : i.light? = some true ↔ i = .wlon := by
  cases i <;> simp [Instr.light?]

/-- WLOFF alone drives the lamp off. -/
theorem light?_eq_some_false_iff {i : Instr} : i.light? = some false ↔ i = .wloff := by
  cases i <;> simp [Instr.light?]

/-- The opcode of WLON is 0xFF exactly (42_warning_light.md R100). -/
theorem decodeOpcode_eq_wlon_iff (cfg : Config) (op : Opcode) : decodeOpcode cfg op = .wlon ↔ op = 0xFF := by
  rw [← light?_eq_some_true_iff, light?_decodeOpcode]
  split_ifs with hon hoff
  · exact iff_of_true rfl hon
  · exact iff_of_false nofun hon
  · exact iff_of_false nofun hon

/-- The opcode of WLOFF is 0x7F exactly (42_warning_light.md R101). -/
theorem decodeOpcode_eq_wloff_iff (cfg : Config) (op : Opcode) : decodeOpcode cfg op = .wloff ↔ op = 0x7F := by
  rw [← light?_eq_some_false_iff, light?_decodeOpcode]
  split_ifs with hon hoff
  · simp [hon]
  · exact iff_of_true rfl hoff
  · exact iff_of_false nofun hoff

end Sys2Proof

namespace Sys2Proof.Machine

/-! ## What a light instruction does -/

/-- The light opcodes have bit 6 set, so that none is the status query and each is echoed under ECHO (41_dispatch.md R91). -/
theorem selField_encodeOpcode_of_light {i : Instr} {level : Bool} (h : i.light? = some level) (cfg : Config) :
    selField (encodeOpcode cfg i) = true := by
  cases level with
  | true => rw [light?_eq_some_true_iff.1 h]; exact (Laws.Layout.wlon cfg).2
  | false => rw [light?_eq_some_false_iff.1 h]; exact (Laws.Layout.wloff cfg).2

/-- A light instruction is step 1, then the lamp and its bit of STATUS, and ends its cycle (42_warning_light.md R100, R101). -/
theorem exec_eq_driveLight {i : Instr} {level : Bool} (h : i.light? = some level) (s : State) :
    exec i s = .next (endCycle (driveLight level (echoStep i s))) := by
  cases level with
  | true => rw [light?_eq_some_true_iff.1 h]; rfl
  | false => rw [light?_eq_some_false_iff.1 h]; rfl

/-- The whole next state of a light instruction: bit 7 of STATUS, the echo under ECHO and then the lamp command, nothing else
(42_warning_light.md R100, R101). -/
theorem exec_light {i : Instr} {level : Bool} (h : i.light? = some level) (s : State) :
    exec i s = .next { s with
      status := setWl level s.status
      control := .polling
      trace := s.trace ++ (if s.echo then [.tx (.echo (encodeOpcode s.cfg i))] else []) ++ [.warnLight level] } := by
  rw [exec_eq_driveLight h, echoStep_eq, echoEvents_selField s _ (selField_encodeOpcode_of_light h s.cfg)]
  rfl

/-- A light instruction leaves STATUS with bit 7 as driven. -/
theorem exec_light_status {i : Instr} {level : Bool} (h : i.light? = some level) {s t : State} (ht : exec i s = .next t) :
    t.status = setWl level s.status := by
  cases (exec_light h s).symm.trans ht
  rfl

/-- Settles O17: 0xFF and its line decode to WLON, whose next state is that of a light instruction at level true. -/
theorem wlonSetsOnlyTheLight : Obligations.WlonSetsOnlyTheLight := by
  refine ⟨decodeOpcode_eq_wlon_iff, fun cfg => decode_lineOf_append cfg 0xFF [], exec_light (level := true) rfl,
    fun s t hs ht => ?_⟩
  rw [exec_light_status rfl ht, hs]
  decide

/-- Settles O18: 0x7F and its line decode to WLOFF, whose next state is that of a light instruction at level false. -/
theorem wloffClearsOnlyTheLight : Obligations.WloffClearsOnlyTheLight := by
  refine ⟨decodeOpcode_eq_wloff_iff, fun cfg => decode_lineOf_append cfg 0x7F [], exec_light (level := false) rfl,
    fun s t hs ht => ?_⟩
  rw [exec_light_status rfl ht, hs]
  decide

end Sys2Proof.Machine
end

section
/-! PROOFS. 30_encoding.md: encoding undoes decoding, decoding undoes encoding, and opcodes classify in the fixed
order (R50 to R63). -/

namespace Sys2Proof

/-! ## Format C -/

/-- The command of a code encodes to that code and its own bit 7, and is well formed (30_encoding.md R54). -/
theorem encode_decodeConfig (cfg : Config) (wl : Bool) (code : Code) :
    encodeOpcode cfg (decodeConfig cfg wl code) = formatC wl code ∧ (decodeConfig cfg wl code).wf cfg = true := by
  rcases decodeConfig_cases cfg wl code with
    ⟨rfl, h⟩ | ⟨rfl, h⟩ | ⟨rfl, h⟩ | ⟨rfl, h⟩ | ⟨rfl, h⟩ | ⟨rfl, h⟩ | ⟨rfl, h⟩ | ⟨rfl, h⟩ | ⟨rfl, h⟩ | ⟨rfl, h⟩ |
      ⟨rfl, h⟩ | ⟨⟨hs, rfl⟩, h⟩ | ⟨⟨hs, rfl⟩, h⟩ | ⟨⟨hs, rfl⟩, h⟩ | ⟨slot, ⟨h4, hs, rfl⟩, h⟩ | ⟨hn, h⟩ <;>
    rw [h] <;> exact ⟨rfl, by simp [Instr.wf, *]⟩

/-- Under distinct codes each code above read-status is matched to its own command (30_encoding.md R57). -/
theorem decodeConfig_named {cfg : Config} (h : cfg.CodesOk) (wl : Bool) :
    decodeConfig cfg wl cfg.opcSleep = .sleep wl ∧ decodeConfig cfg wl cfg.opcTecho = .techo wl ∧
    decodeConfig cfg wl cfg.opcFwver = .fwver wl ∧ decodeConfig cfg wl cfg.opcBaseact = .baseact wl ∧
    decodeConfig cfg wl cfg.opcPrmod = .prmod wl ∧ decodeConfig cfg wl cfg.opcChk24v1 = .chk24v1 wl ∧
    decodeConfig cfg wl cfg.opcChk24v2 = .chk24v2 wl ∧ decodeConfig cfg wl cfg.opcChk24v3 = .chk24v3 wl ∧
    decodeConfig cfg wl cfg.opcInit = .init wl ∧ decodeConfig cfg wl cfg.opcDisable = .disable wl ∧
    decodeConfig cfg wl cfg.opcQstat = .qstat wl := by
  obtain ⟨hnodup, -⟩ := h
  simp only [Config.enumeration, List.cons_append, List.nil_append, List.nodup_cons, List.mem_cons, not_or] at hnodup
  simp [decodeConfig, hnodup, eq_comm]

/-- Under distinct codes the code of a slot that exists passes every comparison before read-status (30_encoding.md
R57). -/
theorem decodeConfig_rdstatCode {cfg : Config} (h : cfg.CodesOk) (wl : Bool) {slot : Nat} (h1 : 1 ≤ slot)
    (hs : slot ≤ cfg.nslotRd) :
    decodeConfig cfg wl (cfg.rdstatCode slot) = decodeReadStatus cfg wl (cfg.rdstatCode slot) := by
  obtain ⟨hnodup, -⟩ := h
  have hmem : cfg.rdstatCode slot ∈ cfg.opcRdstat := List.mem_of_getElem? (getElem_opcRdstat h1 hs)
  have hne : ∀ a ∉ cfg.opcRdstat, cfg.rdstatCode slot ≠ a := fun a ha he => ha (he ▸ hmem)
  simp only [Config.enumeration, List.cons_append, List.nil_append, List.nodup_cons, List.mem_cons, not_or] at hnodup
  simp [decodeConfig, hnodup, hne]

/-- Under distinct codes the read-status code of a slot that exists is the read-status command of that slot, with bit 7
(30_encoding.md R57; 43_config.md R116 to R118). -/
theorem decodeConfig_readStatus {cfg : Config} (h : cfg.CodesOk) (wl : Bool) :
    (1 ≤ cfg.nslotRd → decodeConfig cfg wl (cfg.rdstatCode 1) = .rdstat1 wl) ∧
    (2 ≤ cfg.nslotRd → decodeConfig cfg wl (cfg.rdstatCode 2) = .rdstat2 wl) ∧
    (3 ≤ cfg.nslotRd → decodeConfig cfg wl (cfg.rdstatCode 3) = .rdstat3 wl) ∧
    (∀ slot, 4 ≤ slot → slot ≤ cfg.nslotRd → decodeConfig cfg wl (cfg.rdstatCode slot) = .rdstatFurther wl slot) := by
  have hnodup : cfg.opcRdstat.Nodup := h.1.of_append_right
  refine ⟨fun hs => ?_, fun hs => ?_, fun hs => ?_, fun slot h4 hs => ?_⟩
  case refine_4 =>
    obtain ⟨k, rfl⟩ := Nat.exists_eq_add_of_le' h4
    rw [decodeConfig_rdstatCode h wl (by omega) hs, decodeReadStatus, idxOf?_rdstatCode hnodup (by omega) hs]
    rfl
  all_goals
    rw [decodeConfig_rdstatCode h wl (by omega) hs, decodeReadStatus, idxOf?_rdstatCode hnodup (by omega) hs]
    rfl

/-! ## Format S -/

/-- The selection of a format-S opcode is of its own pair, with its own bit 7 (30_encoding.md R53, R58). -/
theorem selection?_decodeSelect (wl : Bool) (bus : BusField) (idx : IdxField) :
    (decodeSelect wl bus idx).selection? = some (bus, idx) := by
  unfold decodeSelect
  split_ifs with h1 h2 h3 h4 h5 h6 h7 h8
  case neg => rfl
  all_goals exact congrArg some (Eq.symm ‹(bus, idx) = _›)

/-- Every pair but the one the light patterns take encodes to itself and its own bit 7, and is well formed
(30_encoding.md R53, R56). -/
theorem encode_decodeSelect (cfg : Config) (wl : Bool) {bus : BusField} {idx : IdxField} (hne : (bus, idx) ≠ (3, 15)) :
    encodeOpcode cfg (decodeSelect wl bus idx) = formatS wl bus idx ∧ (decodeSelect wl bus idx).wf cfg = true := by
  unfold decodeSelect
  split_ifs with h1 h2 h3 h4 h5 h6 h7 h8
  case neg =>
    have hgeneric : (bus, idx) ∉ namedSelections := by
      simp only [namedSelections, List.mem_cons, List.not_mem_nil, or_false, not_or]
      exact ⟨h1, h2, h3, h4, h5, h6, h7, h8⟩
    exact ⟨rfl, by rw [Instr.wf, decide_eq_true hgeneric, decide_eq_true hne]; rfl⟩
  all_goals
    cases ‹(bus, idx) = _›
    exact ⟨rfl, rfl⟩

/-- A pair without a row of its own is the generic selection (30_encoding.md R58). -/
theorem decodeSelect_generic (wl : Bool) {bus : BusField} {idx : IdxField} (h : (bus, idx) ∉ namedSelections) :
    decodeSelect wl bus idx = .sel wl bus idx := by
  simp only [namedSelections, List.mem_cons, List.not_mem_nil, or_false, not_or] at h
  simp only [decodeSelect, h, if_false]

/-! ## Every opcode, and every instruction -/

/-- Settles O2: each of the four shapes of an opcode is the encoding of the well-formed instruction it decodes to. -/
theorem encodeOfDecodeIsTheOpcode : Obligations.EncodeOfDecodeIsTheOpcode := by
  intro cfg op
  rcases opcode_cases op with rfl | rfl | ⟨wl, code, rfl⟩ | ⟨wl, bus, idx, hne, rfl⟩
  · exact ⟨rfl, rfl⟩
  · exact ⟨rfl, rfl⟩
  · rw [decodeOpcode_formatC]
    exact encode_decodeConfig cfg wl code
  · rw [decodeOpcode_formatS cfg wl bus idx hne]
    exact encode_decodeSelect cfg wl hne

/-- The encoding of an opcode's instruction is the opcode (30_encoding.md R53, R54). -/
@[simp] theorem encodeOpcode_decodeOpcode (cfg : Config) (op : Opcode) : encodeOpcode cfg (decodeOpcode cfg op) = op :=
  (encodeOfDecodeIsTheOpcode cfg op).1

/-- Under distinct codes every well-formed instruction is the decoding of its opcode (30_encoding.md R53 to R59). -/
theorem decodeOpcode_encodeOpcode {cfg : Config} (h : cfg.CodesOk) {i : Instr} (hwf : i.wf cfg = true) :
    decodeOpcode cfg (encodeOpcode cfg i) = i := by
  have formatC {wl : Bool} {code : Code} (he : decodeConfig cfg wl code = i) :
      decodeOpcode cfg (formatC wl code) = i := (decodeOpcode_formatC cfg wl code).trans he
  have formatS {wl : Bool} {bus : BusField} {idx : IdxField} (hne : (bus, idx) ≠ (3, 15))
      (he : decodeSelect wl bus idx = i) : decodeOpcode cfg (formatS wl bus idx) = i :=
    (decodeOpcode_formatS cfg wl bus idx hne).trans he
  have named (wl : Bool) := decodeConfig_named h wl
  obtain ⟨slot1, slot2, slot3, further⟩ := decodeConfig_readStatus h i.wlBit
  cases i with
  | wlon | wloff => rfl
  | sleep wl | techo wl | fwver wl | baseact wl | prmod wl | chk24v1 wl | chk24v2 wl | chk24v3 wl | init wl | disable wl
  | qstat wl => exact formatC (by simp only [named])
  | rdstat1 wl => exact formatC (slot1 (of_decide_eq_true hwf))
  | rdstat2 wl => exact formatC (slot2 (of_decide_eq_true hwf))
  | rdstat3 wl => exact formatC (slot3 (of_decide_eq_true hwf))
  | rdstatFurther wl slot =>
    simp only [Instr.wf, Bool.and_eq_true, decide_eq_true_eq] at hwf
    obtain ⟨h4, hs⟩ := hwf
    exact formatC (further slot h4 hs)
  | unrec wl code => exact formatC (decodeConfig_of_notMem_enumeration (of_decide_eq_true hwf) wl)
  | selEms1 wl | selEms2 wl | selEms3 wl | selEms4 wl | selDfs1 wl | selDfs2 wl | selDfs3 wl | selDfs4 wl =>
    exact formatS (by decide) rfl
  | sel wl bus idx =>
    simp only [Instr.wf, Bool.and_eq_true, decide_eq_true_eq] at hwf
    obtain ⟨hgeneric, hne⟩ := hwf
    exact formatS hne (decodeSelect_generic wl hgeneric)

/-- Settles O1: the instruction's line decodes to its opcode, and the opcode to the instruction. -/
theorem decodeOfEncodeIsTheInstruction : Obligations.DecodeOfEncodeIsTheInstruction := by
  intro cfg i rest hcodes hwf
  rw [encode, decode_lineOf_append, decodeOpcode_encodeOpcode hcodes hwf]

/-- Every opcode with bit 6 set but the light patterns is the selection of its fields (30_encoding.md R56). -/
theorem selection?_decodeOpcode (cfg : Config) {op : Opcode} (hsel : selField op = true) (hon : op ≠ 0xFF)
    (hoff : op ≠ 0x7F) : (decodeOpcode cfg op).selection? = some (busField op, idxField op) := by
  have hne : (busField op, idxField op) ≠ (3, 15) := by
    revert op; decide
  rw [← formatS_fields op hsel, decodeOpcode_formatS cfg _ _ _ hne, busField_formatS, idxField_formatS]
  exact selection?_decodeSelect ..

/-- Settles O3: the light patterns by their exact opcodes, the rest by the fields of their format. -/
theorem opcodesClassifyInTheFixedOrder : Obligations.OpcodesClassifyInTheFixedOrder := by
  intro cfg op hcodes
  refine ⟨decodeOpcode_eq_wlon_iff cfg op, decodeOpcode_eq_wloff_iff cfg op, fun hsel => ?_,
    selection?_decodeOpcode cfg⟩
  have hop : decodeOpcode cfg op = decodeConfig cfg (wlField op) (codeField op) := by
    rw [← decodeOpcode_formatC, formatC_fields op hsel]
  obtain ⟨r1, r2, r3, r4⟩ := decodeConfig_readStatus hcodes (wlField op)
  rw [hop]
  refine ⟨?_, ?_, ?_, ?_, ?_, ?_, ?_, ?_, ?_, ?_, ?_, fun hs he => he ▸ r1 hs, fun hs he => he ▸ r2 hs,
    fun hs he => he ▸ r3 hs, fun slot h4 hs he => he ▸ r4 slot h4 hs,
    fun hn => decodeConfig_of_notMem_enumeration hn _⟩ <;>
  · intro he
    simp only [he, decodeConfig_named hcodes (wlField op)]

/-- Settles O4: the classes are counted out over the 256 opcodes. -/
theorem censusOfTheDefaultOpcodes : Obligations.CensusOfTheDefaultOpcodes := by
  unfold Obligations.CensusOfTheDefaultOpcodes
  decide +kernel

end Sys2Proof
end

section
/-! PROOFS. 40_decoder.md: what a pending line decodes to (R72 to R80), and the moves of the polling loop, the host
and the timeout around a read (R70 to R82; 20_memory.md R32; 70_reset_and_hazards.md R194). -/

namespace Sys2Proof

/-! ## Complete lines -/

/-- A pending line that fits a read is read complete, and its opcode is decoded (40_decoder.md R72, R76). -/
theorem decodeBytes_line_some {line : List Byte} (hlen : line.length ≤ 9) (hlf : asciiLf ∉ line) {op : Opcode}
    (hp : parseLine (line ++ [asciiLf]) = some op) (rest : List Byte) :
    decodeBytes (line ++ asciiLf :: rest) = .ok (op, rest) := by
  have hread := readLine_complete line rest [] (Nat.lt_succ_of_le (by simpa using hlen)) hlf
  simp only [decodeBytes, hread, List.nil_append, hp]

/-- The opcode of a line that begins with a digit run is the run's value modulo 256 (40_decoder.md R76, R77). -/
theorem parseLine_digits {digits : List Bool} {tail : List Byte} (hne : digits ≠ []) (h0 : tail.head? ≠ some asciiZero)
    (h1 : tail.head? ≠ some asciiOne) :
    parseLine (digits.map digitByte ++ tail) =
      some (BitVec.ofNat 8 (digits.foldl (fun v d => 2 * v + d.toNat) 0)) := by
  simp [parseLine, parseBin, parseBinFrom_digits 0 0 digits tail h0 h1, hne]

/-- A line whose first byte is no digit holds no number (40_decoder.md R75). -/
theorem parseLine_noDigit {line : List Byte} (h0 : line.head? ≠ some asciiZero) (h1 : line.head? ≠ some asciiOne) :
    parseLine line = none := by
  simp [parseLine, parseBin, parseBinFrom_stop 0 0 line h0 h1]

/-- A line's LF is no digit, so that the line begins with a digit exactly when its bytes before the LF do. -/
theorem head?_append_lf_ne {line : List Byte} {b : Byte} (h : line.head? ≠ some b) (hb : b ≠ asciiLf) :
    (line ++ [asciiLf]).head? ≠ some b := by
  cases line with
  | nil => simpa using hb.symm
  | cons c cs => simpa using h

/-- Reading a digit run most significant digit first appends its bits at the low end, so that n digits stay below 2 ^
n times the successor of the value before (30_encoding.md R51). -/
theorem foldl_digits_lt (digits : List Bool) (v : Nat) :
    digits.foldl (fun v d => 2 * v + d.toNat) v < (v + 1) * 2 ^ digits.length := by
  induction digits generalizing v with
  | nil => simp
  | cons d ds ih =>
    calc (d :: ds).foldl (fun v d => 2 * v + d.toNat) v
        < (2 * v + d.toNat + 1) * 2 ^ ds.length := ih _
      _ ≤ (2 * (v + 1)) * 2 ^ ds.length := Nat.mul_le_mul_right _ (by have := d.toNat_le; omega)
      _ = (v + 1) * 2 ^ (d :: ds).length := by rw [List.length_cons, Nat.pow_succ]; ring

/-- Settles O6: a run of at most nine digits stays below 2 ^ 9, and its line parses to the run's value. -/
theorem digitRunDecodesToItsValueModulo256 : Obligations.DigitRunDecodesToItsValueModulo256 := by
  refine ⟨fun digits tail rest hne hlen hlf h0 h1 => ⟨?_, ?_⟩, by decide, by decide⟩
  · have hlt := foldl_digits_lt digits 0
    have hpow : 2 ^ digits.length ≤ 2 ^ 9 := Nat.pow_le_pow_right (by omega) (by omega)
    omega
  · refine decodeBytes_line_some (by simpa using hlen) ?_ ?_ rest
    · simp only [List.mem_append, List.mem_map, not_or]
      exact ⟨fun ⟨d, _, hd⟩ => digitByte_ne_lf d hd, hlf⟩
    · rw [List.append_assoc]
      exact parseLine_digits hne (head?_append_lf_ne h0 (by decide)) (head?_append_lf_ne h1 (by decide))

/-- The canonical line of an opcode is nine bytes without LF, then LF (30_encoding.md R50). -/
theorem lineOf_eq_append_lf (op : Opcode) :
    ∃ line, lineOf op = line ++ [asciiLf] ∧ line.length = 9 ∧ asciiLf ∉ line := by
  refine ⟨(lineOf op).take 9, rfl, rfl, ?_⟩
  simp only [lineOf, List.take_succ_cons, List.take_zero, List.mem_cons, (digitByte_ne_lf _).symm, List.not_mem_nil,
    false_or, or_false]
  decide

/-- The canonical line of an opcode decodes to the opcode and leaves the bytes behind it (30_encoding.md R50). -/
theorem decodeBytes_lineOf_append (op : Opcode) (rest : List Byte) :
    decodeBytes (lineOf op ++ rest) = .ok (op, rest) := by
  obtain ⟨line, hline, hlen, hlf⟩ := lineOf_eq_append_lf op
  rw [hline, List.append_assoc]
  exact decodeBytes_line_some hlen.le hlf (hline ▸ parseLine_lineOf op) rest

/-- Settles O5: the eight lines are read and their opcodes looked up. -/
theorem wordsOfTheEncodingTables : Obligations.WordsOfTheEncodingTables := by
  unfold Obligations.WordsOfTheEncodingTables
  decide

end Sys2Proof

namespace Sys2Proof.Machine

/-- Settles O54: the rendering of a status report is the canonical line of the byte. -/
theorem renderedStatusIsACommandLine : Obligations.RenderedStatusIsACommandLine :=
  decodeBytes_lineOf_append

/-! ## Core moves at the top of the loop -/

/-- A complete line at the top of the loop is dispatched on the state with the line gone (40_decoder.md R70, R72). -/
theorem step_line {s : State} {line rest : List Byte} (hc : s.control = .polling) (ha : s.CoreActs)
    (hlen : line.length ≤ 9) (hlf : asciiLf ∉ line) (hrx : s.rx = line ++ asciiLf :: rest) :
    step s = dispatchLine (line ++ [asciiLf]) { s with rx := rest, schedule := s.schedule.tail } := by
  have hread : readLine [] s.rx = .complete (line ++ [asciiLf]) rest := by
    rw [hrx]
    exact readLine_complete line rest [] (Nat.lt_succ_of_le (by simpa using hlen)) hlf
  rw [step_polling ha hc (by simp [hrx])]
  rw [goOnReading_complete (s := s.putSchedule s.schedule.tail) hread]
  simp [State.putRx, State.putControl, State.putSchedule, hc]

/-- A line with digits is dispatched (40_decoder.md R81). -/
theorem dispatchLine_opcode {line : List Byte} {op : Opcode} (h : parseLine line = some op) (s : State) :
    dispatchLine line s = exec (decodeOpcode s.cfg op) s := by
  rw [dispatchLine, h]

/-- Settles O7: a line that begins with no digit parses to nothing, and NotANumber is its report. -/
theorem lineWithoutDigitsIsNotANumber : Obligations.LineWithoutDigitsIsNotANumber := by
  refine ⟨fun s line rest hc ha hlen hlf h0 h1 hrx => ?_, by decide, by decide, by decide, by decide, by decide⟩
  have hparse : parseLine (line ++ [asciiLf]) = none :=
    parseLine_noDigit (head?_append_lf_ne h0 (by decide)) (head?_append_lf_ne h1 (by decide))
  rw [step_line hc ha hlen hlf hrx, dispatchLine_notANumber hparse, takeError_eq]
  simp [errorReport, hc]

/-- At the top of the loop a line with digits is dispatched on the state with the line gone (40_decoder.md R81). -/
theorem step_opcodeLine {s : State} {line rest : List Byte} {op : Opcode} (hc : s.control = .polling) (ha : s.CoreActs)
    (hlen : line.length ≤ 9) (hlf : asciiLf ∉ line) (hp : parseLine (line ++ [asciiLf]) = some op)
    (hrx : s.rx = line ++ asciiLf :: rest) :
    step s = exec (decodeOpcode s.cfg op) { s with rx := rest, schedule := s.schedule.tail } := by
  rw [step_line hc ha hlen hlf hrx, dispatchLine_opcode hp]

/-- Settles O13: an encoding is a line like any other, and its opcode decodes to the instruction. -/
theorem stepRunsTheDecodedInstruction : Obligations.StepRunsTheDecodedInstruction := by
  refine ⟨fun s line rest op hc ha hlen hlf hp hrx => step_opcodeLine hc ha hlen hlf hp hrx,
    fun s i rest hcodes hwf hc ha hrx => ?_⟩
  obtain ⟨line, hline, hlen, hlf⟩ := lineOf_eq_append_lf (encodeOpcode s.cfg i)
  rw [encode, hline, List.append_assoc, List.singleton_append] at hrx
  rw [step_opcodeLine hc ha hlen.le hlf (hline ▸ parseLine_lineOf _) hrx, decodeOpcode_encodeOpcode hcodes hwf]

/-- Settles O14: without input the core move is idle, and with an empty schedule it leaves the schedule too. -/
theorem idleIterationChangesNothing : Obligations.IdleIterationChangesNothing := by
  have idle : ∀ s : State, s.control = .polling → s.CoreActs → s.rx = [] →
      step s = .next { s with schedule := s.schedule.tail } := fun s hc ha hrx => by
    rw [step_coreActs ha (by simp [waiting, hc])]
    exact coreMove_idle hc hrx
  refine ⟨idle, fun s hq => ?_⟩
  obtain ⟨hrx, hs, hc⟩ := hq
  rw [idle s hc (.inl hs) hrx, hs, List.tail_nil, ← hs]

/-- Settles O10: the read is starved with all the pending bytes in LINEBUF. -/
theorem shortReadWaitsForMoreBytes : Obligations.ShortReadWaitsForMoreBytes := by
  intro s hc ha hrx hlen hlf
  rw [step_polling ha hc hrx]
  exact goOnReading_starved (readLine_starved s.rx [] (by simpa [nLine] using hlen) hlf)

/-! ## The host and the timeout -/

/-- Settles O15: the pending bytes exceed RX_CAP exactly when it is finite and below their number. -/
theorem hostBytesQueueUp : Obligations.HostBytesQueueUp := by
  intro s bytes moves hs
  rw [step_hostSends hs, hostSend, State.putSchedule_cfg, State.putSchedule_rx, overCap, List.length_append]
  refine ⟨fun hcap => ?_, fun cap hcap hle => ?_, fun cap hcap hlt => ?_⟩
  · rw [hcap]; rfl
  · rw [hcap, if_neg (by simpa using hle)]; rfl
  · rw [hcap, if_pos (by simpa using hlt)]

/-- Settles O9: elsewhere than in a wait on an empty RX the timeout leaves the state. -/
theorem timeoutOnlyWhileWaiting : Obligations.TimeoutOnlyWhileWaiting := by
  intro s moves hs h
  have hw : ¬ waiting (s.putSchedule moves) = true := by
    rw [waiting_iff]
    rintro ⟨⟨line, hc⟩, hrx⟩
    exact h.elim (fun hn => hn line hc) (fun hn => hn hrx)
  rw [step_timeout hs, timeoutMove, if_neg hw]
  rfl

/-- Settles O12: the wait is over, and the drain follows with its one message. -/
theorem blockedReadEndsInTwoSteps : Obligations.BlockedReadEndsInTwoSteps := by
  intro s line hc hrx hs
  have hover : step s = .next (s.putControl .draining) := step_waitOver hs ((waiting_iff s).2 ⟨⟨line, hc⟩, hrx⟩)
  rw [runSteps_next hover, runSteps_one, step_draining (s := s.putControl .draining) rfl (.inl hs)]
  simp [State.putControl, hrx, hs]

/-! ## A read in two parts -/

/-- Going on with a read that waits is the read begun with the bytes it holds in front of the later ones
(40_decoder.md R71, R78). -/
theorem goOnReading_append {s u : State} {first later : List Byte} (hlen : first.length < 10) (hlf : asciiLf ∉ first)
    (hs : s.rx = first ++ later) (hu : u = { s with rx := later, control := .reading first }) :
    goOnReading first u = goOnReading [] s := by
  have hread : readLine [] s.rx = readLine first later := by
    rw [hs]
    exact readLine_append first later [] (by simpa [nLine] using hlen) hlf
  subst hu
  simp only [goOnReading, hread]
  cases readLine first later <;> rfl

/-- Settles O11: the first step takes the first bytes into LINEBUF, the host's move leaves the later ones in RX, and
the third step goes on with the read. -/
theorem readInTwoPartsEqualsReadAtOnce : Obligations.ReadInTwoPartsEqualsReadAtOnce := by
  intro s first later hc hcap hne hlen hlf
  have hshort := shortReadWaitsForMoreBytes { s with rx := first, schedule := [.core, .hostSends later, .core] } hc
    (.inr rfl) hne hlen hlf
  have happend : step { s with rx := [], schedule := [.hostSends later, .core], control := .reading first } =
      .next { s with rx := later, schedule := [.core], control := .reading first } := by
    obtain ⟨hnone, hsome, -⟩ := hostBytesQueueUp
      { s with rx := [], schedule := [.hostSends later, .core], control := .reading first } later [.core] rfl
    cases hrx : s.cfg.rxCap with
    | none => exact hnone hrx
    | some cap => exact hsome cap hrx (by have := hcap cap hrx; simp; omega)
  have hbegin := step_polling (s := { s with rx := first ++ later, schedule := [.core] }) (.inr rfl) hc (by simp [hne])
  refine (runSteps_next hshort).trans ((runSteps_next happend).trans ?_)
  rw [runSteps_one, step_eq_coreMove (.inr rfl) (by simp), coreMove_reading rfl, hbegin]
  exact goOnReading_append hlen hlf rfl rfl

end Sys2Proof.Machine
end

section
/-! PROOFS. What the dispatch of each instruction does, as one relation between a state, an instruction and its effect
(`Acts`), which `exec` answers exactly (`exec_eq_next_iff`): the rows of 41_dispatch.md R99 with the meanings of
42_warning_light.md, 43_config.md and 44_selection.md. -/

namespace Sys2Proof

/-- The slot of a read-status instruction; none for every other instruction (43_config.md R116 to R118). -/
def Instr.readStatus? : Instr → Option Nat
  | .rdstat1 _ => some 1
  | .rdstat2 _ => some 2
  | .rdstat3 _ => some 3
  | .rdstatFurther _ slot => some slot
  | _ => none

/-- The slot of a check-24V; none for every other instruction (43_config.md R110 to R112). -/
def Instr.check24V? : Instr → Option Nat
  | .chk24v1 _ => some 1
  | .chk24v2 _ => some 2
  | .chk24v3 _ => some 3
  | _ => none

end Sys2Proof

namespace Sys2Proof.Machine

/-! ## Effects -/

/-- What a dispatch leaves behind: the events after the step-1 echo, and the fields it may write. -/
structure Effect where
  events : List Event
  status : Byte
  echo : Bool
  control : Control
  hal : HalAnswers
  draws : Nat

/-- The state after a dispatch of a raw opcode with this effect: the echo of step 1 first; RX, the configuration and the
schedule as they were. -/
def Effect.apply (e : Effect) (op : Opcode) (s : State) : State :=
  { s with
    status := e.status
    echo := e.echo
    control := e.control
    trace := s.trace ++ echoEvents s op ++ e.events
    hal := e.hal
    draws := e.draws }

/-- The cycle ends and nothing else happens. -/
def State.quiet (s : State) : Effect where
  events := []
  status := s.status
  echo := s.echo
  control := .polling
  hal := s.hal
  draws := s.draws

/-- The HAL is asked whether the base controller is active; further events follow (43_config.md R107 to R109). -/
def State.asked (s : State) (more : List Event) : Effect :=
  { s.quiet with
    events := .halIsBaseActive (nextIsBaseActive s) :: more
    hal := { s.hal with isBaseActive := s.hal.isBaseActive.tail }
    draws := s.draws + 1 }

/-- The HAL, found active, is asked for the firmware version, which is reported (43_config.md R107). -/
def State.versionReported (s : State) : Effect :=
  let version := nextFwVersion (halIsBaseActive s)
  { s.asked [.halGetFwVersion version, .tx (.fwVersion version)] with
    hal := { s.hal with isBaseActive := s.hal.isBaseActive.tail, fwVersion := s.hal.fwVersion.tail }
    draws := s.draws + 2 }

/-- The HAL, found active, writes its module list (43_config.md R109). -/
def State.modulesListed (s : State) : Effect :=
  { s.asked [.halPrintModules, .tx (.modules (nextModules (halIsBaseActive s)))] with
    hal := { s.hal with isBaseActive := s.hal.isBaseActive.tail, modules := s.hal.modules.tail }
    draws := s.draws + 2 }

/-- An effect followed by one round of INIT's loop with an opcode in flight (43_config.md R113). -/
def Effect.pollInit (cfg : Config) (op : Opcode) (e : Effect) : Effect :=
  let ok := e.hal.init.head?.getD (Config.freeHalInit e.draws)
  { e with
    events := e.events ++ [.halInit ok]
    status := if ok then recordLast (formatC false cfg.opcSleep) e.status else e.status
    control := if ok then .polling else .initPolling op
    hal := { e.hal with init := e.hal.init.tail }
    draws := e.draws + 1 }

/-- The queries of these slots in turn, with the answers the HAL gives them (43_config.md R110). -/
def checkEvents : List Nat → List CheckStatus → Nat → List Event
  | [], _, _ => []
  | slot :: slots, answers, draws =>
    .halCheck24V slot (answers.head?.getD (Config.freeHalCheck24V draws)) :: checkEvents slots answers.tail (draws + 1)

/-- The HAL is asked for the 24 V of these slots in turn, and the cycle ends (43_config.md R110 to R112). -/
def State.checked (s : State) (slots : List Nat) : Effect :=
  { s.quiet with
    events := checkEvents slots s.hal.check24V s.draws
    hal := { s.hal with check24V := s.hal.check24V.drop slots.length }
    draws := s.draws + slots.length }

/-- The slots a check-24V as built queries, its own first (43_config.md R119; 93_implementation_defined.md U19). -/
def slotsAsBuilt (slot draws : Nat) : List Nat :=
  slot :: ((if slot = 1 ∧ Config.freeSlot2Check (draws + 1) then [2] else []) ++ if slot < 3 then [3] else [])

/-! ## The relation -/

/-- The effect of an instruction in a state, class by class (41_dispatch.md R99). No rule for the read-status
instructions: they are refused. -/
inductive Acts (s : State) : Instr → Effect → Prop where
  | light {i : Instr} {level : Bool} (hi : i.light? = some level) :
      Acts s i { s.quiet with events := [.warnLight level], status := setWl level s.status }
  | sleep (wl : Bool) :
      Acts s (.sleep wl) { s.quiet with
        events := [.dwrite false s.cfg.outSlot 0]
        status := recordLast (formatC false s.cfg.opcSleep) s.status }
  | techo (wl : Bool) :
      Acts s (.techo wl) { s.quiet with events := [.tx (.echoState !s.echo)], echo := !s.echo }
  | fwver (wl : Bool) (ha : nextIsBaseActive s = true) : Acts s (.fwver wl) s.versionReported
  | fwverInactive (wl : Bool) (ha : nextIsBaseActive s = false) : Acts s (.fwver wl) (s.asked [])
  | baseact (wl : Bool) : Acts s (.baseact wl) (s.asked [.tx (.baseActive (nextIsBaseActive s))])
  | prmod (wl : Bool) (ha : nextIsBaseActive s = true) : Acts s (.prmod wl) s.modulesListed
  | prmodInactive (wl : Bool) (ha : nextIsBaseActive s = false) : Acts s (.prmod wl) (s.asked [])
  | check {i : Instr} {slot : Nat} (hi : i.check24V? = some slot) (hb : s.cfg.chk24vFallthrough = false) :
      Acts s i (s.checked [slot])
  | checkAsBuilt {i : Instr} {slot : Nat} (hi : i.check24V? = some slot) (hb : s.cfg.chk24vFallthrough = true) :
      Acts s i ((s.checked (slotsAsBuilt slot s.draws)).pollInit s.cfg (encodeOpcode s.cfg i))
  | init (wl : Bool) : Acts s (.init wl) (s.quiet.pollInit s.cfg (formatC wl s.cfg.opcInit))
  | disable (wl : Bool) :
      Acts s (.disable wl) { s.quiet with
        events := [.halEnableBaseController false]
        status := recordLast (formatC false s.cfg.opcDisable) s.status }
  | qstat (wl : Bool) : Acts s (.qstat wl) { s.quiet with events := [.tx (.status s.status)] }
  | select {i : Instr} {bus : BusField} {idx : IdxField} {chain bussel : Nat} (hi : i.selection? = some (bus, idx))
      (hw : selectionChannels s.cfg bus idx = some (chain, bussel)) :
      Acts s i { s.quiet with
        events := [.dwrite false s.cfg.outSlot 0, .dwrite true s.cfg.outSlot chain, .dwrite true s.cfg.outSlot bussel]
        status := recordLast (formatS false bus idx) s.status }
  | unwired {i : Instr} {bus : BusField} {idx : IdxField} (hi : i.selection? = some (bus, idx))
      (hw : selectionChannels s.cfg bus idx = none) :
      Acts s i { s.quiet with
        status := if s.cfg.unwiredUpdatesStatus then recordLast (formatS false bus idx) s.status else s.status }
  | unrec (wl : Bool) (code : Code) :
      Acts s (.unrec wl code) { s.quiet with events := [.tx (.unrecognized (formatC wl code))] }

/-! ## The relation is what exec answers -/

/-- A state with the effect's fields and trace is the one the effect leads to. -/
theorem Effect.eq_apply {e : Effect} {op : Opcode} {s t : State} (hframe : t = { e.apply op s with trace := t.trace })
    (htrace : t.trace = s.trace ++ echoEvents s op ++ e.events) : t = e.apply op s := by
  rw [hframe, htrace]
  rfl

/-- Step 1 alone is the effect that leaves the control path where it is. -/
theorem echoStep_eq_apply (i : Instr) (s : State) :
    echoStep i s = Effect.apply { s.quiet with control := s.control } (encodeOpcode s.cfg i) s :=
  Effect.eq_apply rfl (List.append_nil _).symm

/-- Only the masked opcode is recorded, format C. -/
theorem recordLast_formatC_masked (wl : Bool) (code : Code) (st : Byte) :
    recordLast (formatC wl code) st = recordLast (formatC false code) st := by
  rw [recordLast_formatC, recordLast_formatC]

/-- Only the masked opcode is recorded, format S. -/
theorem recordLast_formatS_masked (wl : Bool) (bus : BusField) (idx : IdxField) (st : Byte) :
    recordLast (formatS wl bus idx) st = recordLast (formatS false bus idx) st := by
  rw [recordLast_formatS, recordLast_formatS]

/-- A round the HAL answers true records the sleep code and ends the cycle (43_config.md R113). -/
theorem Effect.pollInit_of_true {e : Effect} (cfg : Config) (op : Opcode)
    (h : e.hal.init.head?.getD (Config.freeHalInit e.draws) = true) :
    e.pollInit cfg op = { e with
      events := e.events ++ [.halInit true]
      status := recordLast (formatC false cfg.opcSleep) e.status
      control := .polling
      hal := { e.hal with init := e.hal.init.tail }
      draws := e.draws + 1 } := by
  simp [Effect.pollInit, h]

/-- A round the HAL answers false stays in the loop (43_config.md R113). -/
theorem Effect.pollInit_of_false {e : Effect} (cfg : Config) (op : Opcode)
    (h : e.hal.init.head?.getD (Config.freeHalInit e.draws) = false) :
    e.pollInit cfg op = { e with
      events := e.events ++ [.halInit false]
      control := .initPolling op
      hal := { e.hal with init := e.hal.init.tail }
      draws := e.draws + 1 } := by
  simp [Effect.pollInit, h]

/-- A round of INIT's loop ends in one of two ways (43_config.md R113). -/
theorem Effect.pollInit_end (cfg : Config) (op : Opcode) (e : Effect) :
    ((e.pollInit cfg op).control = .polling ∧
        (e.pollInit cfg op).status = recordLast (formatC false cfg.opcSleep) e.status) ∨
      ((e.pollInit cfg op).control = .initPolling op ∧ (e.pollInit cfg op).status = e.status) := by
  cases h : e.hal.init.head?.getD (Config.freeHalInit e.draws) with
  | true => exact .inl (by rw [pollInit_of_true cfg op h]; exact ⟨rfl, rfl⟩)
  | false => exact .inr (by rw [pollInit_of_false cfg op h]; exact ⟨rfl, rfl⟩)

/-- A round of INIT's loop after a dispatch's other effects is one more effect (43_config.md R113, R119). -/
theorem initRound_apply (op shown : Opcode) (e : Effect) (s : State) :
    initRound op (e.apply shown s) = (e.pollInit s.cfg op).apply shown s := by
  rcases initRound_cases (e.apply shown s) op with ⟨h, he⟩ | ⟨h, he⟩
  · rw [he, Effect.pollInit_of_true s.cfg op h]
    exact Effect.eq_apply rfl (List.append_assoc _ _ _)
  · rw [he, Effect.pollInit_of_false s.cfg op h]
    exact Effect.eq_apply rfl (List.append_assoc _ _ _)

/-- One query is the event with the HAL's next answer. -/
theorem State.checked_singleton (s : State) (slot : Nat) :
    s.checked [slot] = { s.quiet with
      events := [.halCheck24V slot (nextCheck24V s)]
      hal := { s.hal with check24V := s.hal.check24V.tail }
      draws := s.draws + 1 } := by
  simp [State.checked, checkEvents, nextCheck24V]

/-- Queries in turn append their events and use up their answers. -/
theorem foldl_halCheck24V (slots : List Nat) (s : State) :
    slots.foldl (fun u slot => halCheck24V slot u) s = { s with
      trace := s.trace ++ checkEvents slots s.hal.check24V s.draws
      hal := { s.hal with check24V := s.hal.check24V.drop slots.length }
      draws := s.draws + slots.length } := by
  induction slots generalizing s with
  | nil => simp [checkEvents]
  | cons slot slots ih =>
    rw [List.foldl_cons, ih, halCheck24V_eq]
    simp [checkEvents, nextCheck24V, Nat.add_assoc, Nat.add_comm 1]

/-- The as-built checks after a slot's own are the queries of `slotsAsBuilt` in turn (43_config.md R119). -/
theorem fallthroughChecks_halCheck24V (slot : Nat) (s : State) :
    fallthroughChecks slot (halCheck24V slot s) =
      (slotsAsBuilt slot s.draws).foldl (fun u k => halCheck24V k u) s := by
  have hd : (halCheck24V slot s).draws = s.draws + 1 := rfl
  unfold fallthroughChecks slotsAsBuilt
  rw [hd]
  split_ifs <;> rfl

/-- A check-24V after step 1 queries its own slot, and as built its further slots, and goes on into INIT (43_config.md
R110 to R112, R119). -/
theorem check24VAction_emit (slot : Nat) (op : Opcode) (s : State) :
    check24VAction slot op (s.emit (echoEvents s op)) =
      (if s.cfg.chk24vFallthrough then (s.checked (slotsAsBuilt slot s.draws)).pollInit s.cfg op
        else s.checked [slot]).apply op s := by
  have hcfg : (s.emit (echoEvents s op)).cfg = s.cfg := rfl
  have hdraws : (s.emit (echoEvents s op)).draws = s.draws := rfl
  rw [check24VAction, hcfg]
  split_ifs
  · rw [fallthroughChecks_halCheck24V, foldl_halCheck24V, hdraws, ← initRound_apply]
    rfl
  · rw [State.checked_singleton]
    rfl

/-- Every check-24V is the one check of its slot. -/
theorem exec_check24V {s : State} {i : Instr} {slot : Nat} (hi : i.check24V? = some slot) :
    exec i s = .next (check24VAction slot (encodeOpcode s.cfg i) (echoStep i s)) := by
  cases i <;> cases hi <;> rfl

/-- An effect of the relation is what exec answers. -/
theorem Acts.exec_eq {s : State} {i : Instr} {e : Effect} (h : Acts s i e) :
    exec i s = .next (e.apply (encodeOpcode s.cfg i) s) := by
  have active {b : Bool} (ha : nextIsBaseActive s = b) : nextIsBaseActive (echoStep i s) = b := ha
  cases h with
  | light hi =>
    rw [exec_eq_driveLight hi]
    rfl
  | techo wl | qstat wl | unrec wl code => rfl
  | sleep wl =>
    simp only [exec, execSleep, encodeOpcode, recordLast_formatC_masked]
    rfl
  | disable wl =>
    simp only [exec, execDisable, encodeOpcode, recordLast_formatC_masked]
    rfl
  | baseact wl =>
    rw [exec, execBaseact]
    exact congrArg _ (Effect.eq_apply rfl (List.append_assoc _ [_] [_]))
  | fwver wl ha =>
    rw [exec, execFwver, active ha]
    exact congrArg _ (Effect.eq_apply rfl ((List.append_assoc _ [_] [_]).trans (List.append_assoc _ [_] [_, _])))
  | fwverInactive wl ha =>
    rw [exec, execFwver, active ha]
    rfl
  | prmod wl ha =>
    rw [exec, execPrmod, active ha]
    exact congrArg _ (Effect.eq_apply rfl (List.append_assoc _ [_] [_, _]))
  | prmodInactive wl ha =>
    rw [exec, execPrmod, active ha]
    rfl
  | check hi hb =>
    rw [exec_check24V hi, echoStep_eq, check24VAction_emit, hb]
    rfl
  | checkAsBuilt hi hb =>
    rw [exec_check24V hi, echoStep_eq, check24VAction_emit, hb]
    rfl
  | init wl =>
    rw [exec, execInit, echoStep_eq_apply, initRound_apply]
    rfl
  | select hi hw =>
    obtain ⟨hexec, hop⟩ := exec_selection hi s
    rw [hexec, selectInstr, selectAction, echoStep_eq, hop]
    simp only [State.emit_cfg, hw, selectSeq_eq, recordLast_formatS_masked]
    rfl
  | unwired hi hw =>
    obtain ⟨hexec, hop⟩ := exec_selection hi s
    rw [hexec, selectInstr, selectAction, echoStep_eq, hop]
    simp only [State.emit_cfg, hw, recordLast_formatS_masked]
    cases s.cfg.unwiredUpdatesStatus <;> rfl

/-- Every instruction but the read-status ones has an effect (43_config.md R116 to R118). -/
theorem acts_or_readStatus (s : State) (i : Instr) : (∃ slot, i.readStatus? = some slot) ∨ ∃ e, Acts s i e := by
  have select {bus : BusField} {idx : IdxField} (hi : i.selection? = some (bus, idx)) : ∃ e, Acts s i e := by
    cases hw : selectionChannels s.cfg bus idx with
    | none => exact ⟨_, .unwired hi hw⟩
    | some channels => exact ⟨_, .select hi hw⟩
  have check {slot : Nat} (hi : i.check24V? = some slot) : ∃ e, Acts s i e := by
    cases hb : s.cfg.chk24vFallthrough with
    | false => exact ⟨_, .check hi hb⟩
    | true => exact ⟨_, .checkAsBuilt hi hb⟩
  cases i with
  | wlon | wloff => exact .inr ⟨_, .light rfl⟩
  | sleep wl => exact .inr ⟨_, .sleep wl⟩
  | techo wl => exact .inr ⟨_, .techo wl⟩
  | fwver wl =>
    cases ha : nextIsBaseActive s with
    | false => exact .inr ⟨_, .fwverInactive wl ha⟩
    | true => exact .inr ⟨_, .fwver wl ha⟩
  | baseact wl => exact .inr ⟨_, .baseact wl⟩
  | prmod wl =>
    cases ha : nextIsBaseActive s with
    | false => exact .inr ⟨_, .prmodInactive wl ha⟩
    | true => exact .inr ⟨_, .prmod wl ha⟩
  | chk24v1 wl | chk24v2 wl | chk24v3 wl => exact .inr (check rfl)
  | init wl => exact .inr ⟨_, .init wl⟩
  | disable wl => exact .inr ⟨_, .disable wl⟩
  | qstat wl => exact .inr ⟨_, .qstat wl⟩
  | rdstat1 wl | rdstat2 wl | rdstat3 wl | rdstatFurther wl slot => exact .inl ⟨_, rfl⟩
  | selEms1 wl | selEms2 wl | selEms3 wl | selEms4 wl | selDfs1 wl | selDfs2 wl | selDfs3 wl | selDfs4 wl
  | sel wl bus idx =>
    exact .inr (select rfl)
  | unrec wl code => exact .inr ⟨_, .unrec wl code⟩

/-- A read-status instruction is refused by name (43_config.md R116 to R118). -/
theorem exec_readStatus {i : Instr} {slot : Nat} (h : i.readStatus? = some slot) (s : State) :
    exec i s = .refused (.readStatusActionNotInSource slot) := by
  cases i <;> cases h <;> rfl

/-- A dispatch answers the next state of its effect. -/
theorem exec_eq_next_iff {s t : State} {i : Instr} :
    exec i s = .next t ↔ ∃ e, Acts s i e ∧ t = e.apply (encodeOpcode s.cfg i) s := by
  constructor
  · intro h
    rcases acts_or_readStatus s i with ⟨slot, hslot⟩ | ⟨e, he⟩
    · cases (exec_readStatus hslot s).symm.trans h
    · cases he.exec_eq.symm.trans h
      exact ⟨e, he, rfl⟩
  · rintro ⟨e, he, rfl⟩
    exact he.exec_eq

/-- A dispatch is refused for a read-status instruction alone, with its slot. -/
theorem exec_eq_refused_iff {s : State} {i : Instr} {r : Refusal} :
    exec i s = .refused r ↔ ∃ slot, i.readStatus? = some slot ∧ r = .readStatusActionNotInSource slot := by
  constructor
  · intro h
    rcases acts_or_readStatus s i with ⟨slot, hslot⟩ | ⟨e, he⟩
    · cases (exec_readStatus hslot s).symm.trans h
      exact ⟨slot, hslot, rfl⟩
    · cases he.exec_eq.symm.trans h
  · rintro ⟨slot, hslot, rfl⟩
    exact exec_readStatus hslot s

end Sys2Proof.Machine
end

section
/-! PROOFS. The whole next state of each instruction: 43_config.md R105 to R119, 44_selection.md R130 to R140. -/

namespace Sys2Proof.Machine

/-! ## Config/sleep -/

/-- Settles O19: SLEEP's effect, with the masked code written out. -/
theorem sleepDeassertsAllAndRecords : Obligations.SleepDeassertsAllAndRecords := by
  intro s wl
  rw [(Acts.sleep wl).exec_eq, recordLast_formatC]
  rfl

/-- Settles O20: TECHO's effect. -/
theorem techoInvertsAndReports : Obligations.TechoInvertsAndReports :=
  fun _ wl => (Acts.techo wl).exec_eq

/-- Settles O21: FWVER's effect, as the HAL answers. -/
theorem fwverReportsTheVersionIfActive : Obligations.FwverReportsTheVersionIfActive := by
  refine fun s wl => ⟨fun ha => ?_, fun ha => ?_⟩
  · rw [(Acts.fwver wl ha).exec_eq, State.versionReported, State.asked, ha]
    rfl
  · rw [(Acts.fwverInactive wl ha).exec_eq, State.asked, ha]
    rfl

/-- Settles O22: BASEACT's effect. -/
theorem baseactReportsTheAnswer : Obligations.BaseactReportsTheAnswer :=
  fun _ wl => (Acts.baseact wl).exec_eq

/-- Settles O23: PRMOD's effect, as the HAL answers. -/
theorem prmodEnumeratesIfActive : Obligations.PrmodEnumeratesIfActive := by
  refine fun s wl => ⟨fun ha => ?_, fun ha => ?_⟩
  · rw [(Acts.prmod wl ha).exec_eq, State.modulesListed, State.asked, ha]
    rfl
  · rw [(Acts.prmodInactive wl ha).exec_eq, State.asked, ha]
    rfl

/-- A check-24V without the fall-through is the one query of its slot (43_config.md R110 to R112). -/
theorem exec_check24V_alone {s : State} {i : Instr} {slot : Nat} (hi : i.check24V? = some slot)
    (hb : s.cfg.chk24vFallthrough = false) :
    exec i s = .next { s with
      control := .polling
      trace := s.trace ++ echoEvents s (encodeOpcode s.cfg i) ++ [.halCheck24V slot (nextCheck24V s)]
      hal := { s.hal with check24V := s.hal.check24V.tail }
      draws := s.draws + 1 } := by
  rw [(Acts.check hi hb).exec_eq, State.checked_singleton]
  rfl

/-- Settles O24: each of the three checks its own slot. -/
theorem check24VQueriesItsSlotOnly : Obligations.Check24VQueriesItsSlotOnly :=
  fun _ _ hb => ⟨exec_check24V_alone rfl hb, exec_check24V_alone rfl hb, exec_check24V_alone rfl hb⟩

/-- Queries in turn are one query event per slot, each with some answer. -/
theorem checkEvents_eq_zipWith (slots : List Nat) (scripted : List CheckStatus) (draws : Nat) :
    ∃ answers : List CheckStatus, answers.length = slots.length ∧
      checkEvents slots scripted draws = List.zipWith Event.halCheck24V slots answers := by
  induction slots generalizing scripted draws with
  | nil => exact ⟨[], rfl, rfl⟩
  | cons slot slots ih =>
    obtain ⟨answers, hlen, he⟩ := ih scripted.tail (draws + 1)
    exact ⟨_ :: answers, congrArg (· + 1) hlen, congrArg (_ :: ·) he⟩

/-- A check-24V as built queries its slots in turn and polls `Hal.init` once, with INIT's two ends (43_config.md
R119). -/
theorem exec_check24V_asBuilt {s : State} {i : Instr} {slot : Nat} (hi : i.check24V? = some slot)
    (hb : s.cfg.chk24vFallthrough = true) :
    ∃ t answers ok, exec i s = .next t ∧ answers.length = (slotsAsBuilt slot s.draws).length ∧
      t.trace = s.trace ++ echoEvents s (encodeOpcode s.cfg i) ++
        List.zipWith Event.halCheck24V (slotsAsBuilt slot s.draws) answers ++ [.halInit ok] ∧
      (ok = true → t.control = .polling ∧ t.status = (s.status &&& 0x80) ||| formatC false s.cfg.opcSleep) ∧
      (ok = false → t.control = .initPolling (encodeOpcode s.cfg i) ∧ t.status = s.status) ∧
      t.echo = s.echo ∧ t.rx = s.rx ∧ t.schedule = s.schedule ∧ t.cfg = s.cfg := by
  obtain ⟨answers, hlen, hev⟩ := checkEvents_eq_zipWith (slotsAsBuilt slot s.draws) s.hal.check24V s.draws
  have hexec := (Acts.checkAsBuilt hi hb).exec_eq
  have hchecks : (s.checked (slotsAsBuilt slot s.draws)).events = _ := hev
  have htrace (ok : Event) := (List.append_assoc (s.trace ++ echoEvents s (encodeOpcode s.cfg i))
    (List.zipWith Event.halCheck24V (slotsAsBuilt slot s.draws) answers) [ok]).symm
  cases hok : s.hal.init.head?.getD (Config.freeHalInit (s.draws + (slotsAsBuilt slot s.draws).length)) with
  | true =>
    rw [Effect.pollInit_of_true _ _ hok, hchecks, recordLast_formatC] at hexec
    exact ⟨_, answers, true, hexec, hlen, htrace _, fun _ => ⟨rfl, rfl⟩, nofun, rfl, rfl, rfl, rfl⟩
  | false =>
    rw [Effect.pollInit_of_false _ _ hok, hchecks] at hexec
    exact ⟨_, answers, false, hexec, hlen, htrace _, nofun, fun _ => ⟨rfl, rfl⟩, rfl, rfl, rfl, rfl⟩

/-- Settles O25: the slots the three checks query as built, slot 2 after slot 1 as the free value says. -/
theorem check24VAsBuiltFallsThroughToInit : Obligations.Check24VAsBuiltFallsThroughToInit := by
  intro s wl hb
  refine ⟨?_, exec_check24V_asBuilt (i := .chk24v2 wl) rfl hb, exec_check24V_asBuilt (i := .chk24v3 wl) rfl hb⟩
  have h := exec_check24V_asBuilt (i := .chk24v1 wl) rfl hb
  cases hfree : Config.freeSlot2Check (s.draws + 1) with
  | false =>
    rw [show slotsAsBuilt 1 s.draws = [1, 3] by simp [slotsAsBuilt, hfree]] at h
    exact .inl h
  | true =>
    rw [show slotsAsBuilt 1 s.draws = [1, 2, 3] by simp [slotsAsBuilt, hfree]] at h
    exact .inr h

/-- Settles O26: the first round of INIT's loop, as the HAL answers. -/
theorem initPollsAndRecordsSleep : Obligations.InitPollsAndRecordsSleep := by
  refine fun s wl => ⟨fun hn => ?_, fun hn => ?_⟩
  · rw [(Acts.init wl).exec_eq, Effect.pollInit_of_true (e := s.quiet) _ _ hn, recordLast_formatC]
    rfl
  · rw [(Acts.init wl).exec_eq, Effect.pollInit_of_false (e := s.quiet) _ _ hn]
    rfl

/-- Settles O28: DISABLE's effect, with the masked code written out. -/
theorem disableRecordsItsCode : Obligations.DisableRecordsItsCode := by
  intro s wl
  rw [(Acts.disable wl).exec_eq, recordLast_formatC]
  rfl

/-- Settles O29: QSTAT's effect, the echo of its opcode being empty. -/
theorem qstatReportsStatusUnechoed : Obligations.QstatReportsStatusUnechoed := by
  intro s wl
  rw [(Acts.qstat wl).exec_eq, Effect.apply, encodeOpcode, echoEvents_opcQstat, List.append_nil]
  rfl

/-- Settles O30: the codes of the slots that exist are matched to read-status, which is refused. -/
theorem readStatusIsRecognisedAndRefused : Obligations.ReadStatusIsRecognisedAndRefused := by
  refine ⟨fun cfg wl hcodes => ?_, fun s wl => ⟨exec_readStatus rfl s, exec_readStatus rfl s, exec_readStatus rfl s,
    fun slot => exec_readStatus rfl s⟩⟩
  simp only [decodeOpcode_formatC]
  exact decodeConfig_readStatus hcodes wl

/-! ## INIT's loop -/

/-- Inside INIT's loop the core makes one more round (43_config.md R113). -/
theorem coreMove_initPolling {s : State} {op : Opcode} (hc : s.control = .initPolling op) :
    coreMove s = .next (initRound op s) := by
  simp only [coreMove, hc]

/-- In INIT's loop with nothing scheduled a step is one round (43_config.md R113). -/
theorem step_initPolling {s : State} {op : Opcode} (hc : s.control = .initPolling op) (hs : s.schedule = []) :
    step s = .next (initRound op s) := by
  have hkeep : s.schedule.tail = s.schedule := by rw [hs, List.tail_nil]
  rw [step_coreActs (.inl hs) (by simp [waiting, hc]), hkeep]
  exact coreMove_initPolling hc

/-- A round the HAL answers true (43_config.md R113). -/
theorem initRound_of_true {s : State} {op : Opcode} (h : nextInit s = true) :
    initRound op s = { s with
      trace := s.trace ++ [.halInit true]
      hal := { s.hal with init := s.hal.init.tail }
      draws := s.draws + 1
      control := .polling
      status := recordLast (formatC false s.cfg.opcSleep) s.status } :=
  ((initRound_cases s op).resolve_right (by simp [h])).2

/-- A round the HAL answers false (43_config.md R113). -/
theorem initRound_of_false {s : State} {op : Opcode} (h : nextInit s = false) :
    initRound op s = { s with
      trace := s.trace ++ [.halInit false]
      hal := { s.hal with init := s.hal.init.tail }
      draws := s.draws + 1
      control := .initPolling op } :=
  ((initRound_cases s op).resolve_left (by simp [h])).2

/-- A run goes on by a step. -/
theorem runSteps_succ_of_next {n : Nat} {s u : State} (h : runSteps n s = .next u) : runSteps (n + 1) s = step u := by
  induction n generalizing s with
  | zero =>
    cases h
    exact runSteps_one _
  | succ n ih =>
    cases hstep : step s with
    | next t =>
      rw [runSteps_next hstep] at h ⊢
      exact ih h
    | fault f => simp [runSteps, hstep] at h
    | refused r => simp [runSteps, hstep] at h

/-- While the HAL's answers are scripted false the loop goes on, a round a step (43_config.md R113). -/
theorem runSteps_initPolling (n : Nat) (s : State) (op : Opcode) (left : List Bool) (hc : s.control = .initPolling op)
    (hs : s.schedule = []) (hinit : s.hal.init = List.replicate n false ++ left) :
    runSteps n s = .next { s with
      trace := s.trace ++ List.replicate n (.halInit false)
      hal := { s.hal with init := left }
      draws := s.draws + n } := by
  induction n generalizing s with
  | zero =>
    have hleft : left = s.hal.init := hinit.symm
    simp [runSteps, hleft]
  | succ n ih =>
    rw [List.replicate_succ, List.cons_append] at hinit
    have hround := initRound_of_false (s := s) (op := op) (by rw [nextInit, hinit]; rfl)
    have hrest := ih (initRound op s) (by rw [hround]) (by rw [hround]; exact hs)
      (by rw [hround]; exact congrArg List.tail hinit)
    rw [runSteps_next (step_initPolling hc hs), hrest, hround]
    simp [List.replicate_succ, hc, Nat.add_assoc, Nat.add_comm 1]

/-- Settles O27: after the false answers' rounds, the round of the true one ends the loop. -/
theorem initLoopRunsUntilTrue : Obligations.InitLoopRunsUntilTrue := by
  refine ⟨fun n s op left hc hs hinit => ?_, runSteps_initPolling⟩
  rw [runSteps_succ_of_next (runSteps_initPolling n s op (true :: left) hc hs hinit), ← recordLast_formatC false]
  rw [step_initPolling (op := op) (by exact hc) (by exact hs), initRound_of_true rfl]
  rfl

/-! ## Selection -/

/-- Settles O31: the effect of a wired selection, with the masked opcode written out. -/
theorem wiredSelectionWritesThreeAndRecords : Obligations.WiredSelectionWritesThreeAndRecords := by
  intro s i bus idx chain bussel hi hw
  rw [(Acts.select hi hw).exec_eq, (exec_selection hi s).2, recordLast_formatS]
  rfl

/-- An unwired pair names no channels. -/
theorem wired_eq_false_iff {cfg : Config} {bus : BusField} {idx : IdxField} :
    wired cfg bus idx = false ↔ selectionChannels cfg bus idx = none := by
  rw [wired, Option.isSome_eq_false_iff, Option.isNone_iff_eq_none]

/-- Settles O32: the effect of an unwired selection; bus codes 2 and 3 name no bus. -/
theorem unwiredSelectionIsSilent : Obligations.UnwiredSelectionIsSilent := by
  refine ⟨fun s i bus idx hi hw => ?_, fun cfg idx => ⟨rfl, rfl⟩⟩
  rw [(Acts.unwired hi (wired_eq_false_iff.1 hw)).exec_eq, (exec_selection hi s).2, recordLast_formatS, Effect.apply,
    State.quiet, List.append_nil]

/-- Bit 7 of a format-S opcode, set or clear over the masked opcode (30_encoding.md R53). -/
theorem formatS_eq_or (wl : Bool) (bus : BusField) (idx : IdxField) :
    formatS wl bus idx = if wl then formatS false bus idx ||| 0x80 else formatS false bus idx := by
  revert wl bus idx; decide

/-- The opcode, the bit and the writes of a selection that the default wiring has (44_selection.md R133 to R140). -/
theorem selects_default {s : State} (hcfg : s.cfg = Config.default) (wl : Bool) (bus : BusField) (idx : IdxField)
    (hne : (bus, idx) ≠ (3, 15)) {chain bussel : Nat}
    (hw : selectionChannels Config.default bus idx = some (chain, bussel)) :
    decodeOpcode s.cfg (if wl then formatS false bus idx ||| 0x80 else formatS false bus idx) =
      decodeSelect wl bus idx ∧
    exec (decodeSelect wl bus idx) s = .next { s with
      status := (s.status &&& 0x80) ||| formatS false bus idx
      control := .polling
      trace := s.trace ++
        (if s.echo then [.tx (.echo (if wl then formatS false bus idx ||| 0x80 else formatS false bus idx))] else []) ++
        [.dwrite false 1 0, .dwrite true 1 chain, .dwrite true 1 bussel] } := by
  rw [← formatS_eq_or]
  refine ⟨decodeOpcode_formatS s.cfg wl bus idx hne, ?_⟩
  have hslot : s.cfg.outSlot = 1 := by rw [hcfg]; rfl
  have hexec := (Acts.select (selection?_decodeSelect wl bus idx) (hcfg ▸ hw)).exec_eq
  rw [(encode_decodeSelect s.cfg wl hne).1, Effect.apply, echoEvents_selField s _ (selField_formatS wl bus idx), hslot,
    recordLast_formatS] at hexec
  exact hexec

/-- Settles O33: the eight rows of the default wiring. -/
theorem eightDefaultSelections : Obligations.EightDefaultSelections := by
  intro s wl hcfg
  exact ⟨selects_default hcfg wl 0 1 (by decide) rfl, selects_default hcfg wl 0 2 (by decide) rfl,
    selects_default hcfg wl 0 3 (by decide) rfl, selects_default hcfg wl 0 4 (by decide) rfl,
    selects_default hcfg wl 1 1 (by decide) rfl, selects_default hcfg wl 1 2 (by decide) rfl,
    selects_default hcfg wl 1 3 (by decide) rfl, selects_default hcfg wl 1 4 (by decide) rfl⟩

end Sys2Proof.Machine
end

section
/-! PROOFS. 41_dispatch.md: what every dispatch has in common. Its events and its echo (R91, R99), its input and its end
(R96), bit 7 of its opcode (30_encoding.md R60), and the properties of R97. -/

namespace Sys2Proof

/-! ## Bit 7 of an instruction -/

/-- The instruction with another bit 7; the light instructions, whose patterns fix it, as they are (30_encoding.md R53
to R55). -/
def Instr.withWl (wl : Bool) : Instr → Instr
  | .wlon => .wlon
  | .wloff => .wloff
  | .sleep _ => .sleep wl
  | .techo _ => .techo wl
  | .fwver _ => .fwver wl
  | .baseact _ => .baseact wl
  | .prmod _ => .prmod wl
  | .chk24v1 _ => .chk24v1 wl
  | .chk24v2 _ => .chk24v2 wl
  | .chk24v3 _ => .chk24v3 wl
  | .init _ => .init wl
  | .disable _ => .disable wl
  | .qstat _ => .qstat wl
  | .rdstat1 _ => .rdstat1 wl
  | .rdstat2 _ => .rdstat2 wl
  | .rdstat3 _ => .rdstat3 wl
  | .rdstatFurther _ slot => .rdstatFurther wl slot
  | .selEms1 _ => .selEms1 wl
  | .selEms2 _ => .selEms2 wl
  | .selEms3 _ => .selEms3 wl
  | .selEms4 _ => .selEms4 wl
  | .selDfs1 _ => .selDfs1 wl
  | .selDfs2 _ => .selDfs2 wl
  | .selDfs3 _ => .selDfs3 wl
  | .selDfs4 _ => .selDfs4 wl
  | .sel _ bus idx => .sel wl bus idx
  | .unrec _ code => .unrec wl code

/-- Bit 7 is no part of a read-status slot. -/
theorem readStatus?_withWl (i : Instr) (wl : Bool) : (i.withWl wl).readStatus? = i.readStatus? := by
  cases i <;> rfl

/-- Bit 7 is no part of a check-24V's slot. -/
theorem check24V?_withWl (i : Instr) (wl : Bool) : (i.withWl wl).check24V? = i.check24V? := by
  cases i <;> rfl

/-- Bit 7 is no part of a selection's pair. -/
theorem selection?_withWl (i : Instr) (wl : Bool) : (i.withWl wl).selection? = i.selection? := by
  cases i <;> rfl

/-- Bit 7 is passed through the match against the enumeration (41_dispatch.md R92). -/
theorem decodeConfig_withWl (cfg : Config) (wl wl' : Bool) (code : Code) :
    (decodeConfig cfg wl code).withWl wl' = decodeConfig cfg wl' code := by
  simp only [decodeConfig, decodeReadStatus, apply_ite (Instr.withWl wl')]
  rcases cfg.opcRdstat.idxOf? code with _ | _ | _ | _ | k <;> rfl

/-- Bit 7 is passed through the selection (41_dispatch.md R92). -/
theorem decodeSelect_withWl (wl wl' : Bool) (bus : BusField) (idx : IdxField) :
    (decodeSelect wl bus idx).withWl wl' = decodeSelect wl' bus idx := by
  simp only [decodeSelect, apply_ite (Instr.withWl wl')]
  rfl

end Sys2Proof

namespace Sys2Proof.Machine

/-! ## The events of a class (41_dispatch.md R99) -/

/-- Queries in turn are queries of their slots. -/
theorem exists_of_mem_checkEvents {slots : List Nat} {scripted : List CheckStatus} {draws : Nat} {e : Event}
    (h : e ∈ checkEvents slots scripted draws) : ∃ slot ∈ slots, ∃ answer, e = .halCheck24V slot answer := by
  induction slots generalizing scripted draws with
  | nil => cases h
  | cons slot slots ih =>
    rcases List.mem_cons.1 h with rfl | h
    · exact ⟨slot, List.mem_cons_self, _, rfl⟩
    · obtain ⟨other, hmem, he⟩ := ih h
      exact ⟨other, List.mem_cons_of_mem _ hmem, he⟩

/-- The slots queried as built: the own one, slot 2 after slot 1, slot 3 after slots 1 and 2 (43_config.md R119). -/
theorem mem_slotsAsBuilt {slot draws other : Nat} (h : other ∈ slotsAsBuilt slot draws) :
    other = slot ∨ slot = 1 ∧ other = 2 ∨ slot < 3 ∧ other = 3 := by
  simp only [slotsAsBuilt, List.mem_cons, List.mem_append] at h
  rcases h with h | h | h
  · exact .inl h
  · split_ifs at h with hslot
    · exact .inr (.inl ⟨hslot.1, List.mem_singleton.1 h⟩)
    · cases h
  · split_ifs at h with hslot
    · exact .inr (.inr ⟨hslot, List.mem_singleton.1 h⟩)
    · cases h

/-- The lamp command of a light instruction's class. -/
theorem mayIssue_warnLight_iff {cfg : Config} {i : Instr} {level : Bool} :
    mayIssue cfg i (.warnLight level) = true ↔ i.light? = some level := by
  cases i <;> cases level <;> simp [mayIssue, Instr.light?]

/-- The queries of a check-24V's class. -/
theorem mayIssue_halCheck24V {cfg : Config} {i : Instr} {slot other : Nat} {answer : CheckStatus}
    (hi : i.check24V? = some slot)
    (h : other = slot ∨ cfg.chk24vFallthrough = true ∧ (slot = 1 ∧ other = 2 ∨ slot < 3 ∧ other = 3)) :
    mayIssue cfg i (.halCheck24V other answer) = true := by
  cases i <;> cases hi <;> simp [mayIssue] at h ⊢ <;> tauto

/-- As built a check-24V may call `Hal.init`. -/
theorem mayIssue_halInit {cfg : Config} {i : Instr} {slot : Nat} {ok : Bool} (hi : i.check24V? = some slot)
    (hb : cfg.chk24vFallthrough = true) : mayIssue cfg i (.halInit ok) = true := by
  cases i <;> cases hi <;> exact hb

/-- The writes of a wired selection's class, whatever row it has. -/
theorem mayIssue_dwrite_wired {cfg : Config} {i : Instr} {bus : BusField} {idx : IdxField} {chain bussel : Nat}
    (hi : i.selection? = some (bus, idx)) (hw : selectionChannels cfg bus idx = some (chain, bussel)) (level : Bool)
    (slot channel : Nat) :
    mayIssue cfg i (.dwrite level slot channel) = (decide (slot = cfg.outSlot) &&
      (!level && decide (channel = 0) || level && (decide (channel = chain) || decide (channel = bussel)))) := by
  cases i <;> cases hi <;> simp only [mayIssue, Instr.selection?, hw]

/-- An unwired selection's class has no write. -/
theorem mayIssue_dwrite_unwired {cfg : Config} {i : Instr} {bus : BusField} {idx : IdxField}
    (hi : i.selection? = some (bus, idx)) (hw : selectionChannels cfg bus idx = none) (level : Bool)
    (slot channel : Nat) :
    mayIssue cfg i (.dwrite level slot channel) = false := by
  cases i <;> cases hi <;> simp only [mayIssue, Instr.selection?, hw]

/-- Discrete writes are of SLEEP's class and of the wired selections' only. -/
theorem of_mayIssue_dwrite {cfg : Config} {i : Instr} {level : Bool} {slot channel : Nat}
    (h : mayIssue cfg i (.dwrite level slot channel) = true) :
    (∃ wl, i = .sleep wl) ∨ ∃ bus idx chain bussel, i.selection? = some (bus, idx) ∧
      selectionChannels cfg bus idx = some (chain, bussel) := by
  cases hi : i.selection? with
  | some pair =>
    cases hw : selectionChannels cfg pair.1 pair.2 with
    | some channels => exact .inr ⟨_, _, _, _, rfl, hw⟩
    | none => rw [mayIssue_dwrite_unwired hi hw] at h; cases h
  | none =>
    cases i with
    | sleep wl => exact .inl ⟨wl, rfl⟩
    | _ => simp [mayIssue, Instr.selection?] at h hi

/-- The echo is of no class: it is step 1's. -/
theorem mayIssue_echo (cfg : Config) (i : Instr) (op : Opcode) : mayIssue cfg i (.tx (.echo op)) = false := by
  cases i <;> rfl

/-- An effect's events are of the instruction's class (41_dispatch.md R99; 43_config.md R119). -/
theorem Acts.mayIssue {s : State} {i : Instr} {e : Effect} (h : Acts s i e) :
    ∀ ev ∈ e.events, mayIssue s.cfg i ev = true := by
  rw [← List.all_eq_true]
  cases h with
  | light hi => simp [mayIssue_warnLight_iff, hi]
  | sleep wl => simp [Machine.mayIssue]
  | check hi hb =>
    rw [List.all_eq_true]
    intro ev hev
    obtain ⟨other, hother, answer, rfl⟩ := exists_of_mem_checkEvents hev
    exact mayIssue_halCheck24V hi (.inl (List.mem_singleton.1 hother))
  | checkAsBuilt hi hb =>
    rw [List.all_eq_true]
    intro ev hev
    rcases List.mem_append.1 hev with hev | hev
    · obtain ⟨other, hother, answer, rfl⟩ := exists_of_mem_checkEvents hev
      exact mayIssue_halCheck24V hi ((mem_slotsAsBuilt hother).imp_right fun h => ⟨hb, h⟩)
    · rw [List.mem_singleton.1 hev]
      exact mayIssue_halInit hi hb
  | select hi hw => simp [mayIssue_dwrite_wired hi hw]
  | _ => rfl

/-- Settles O40: the events of an instruction's effect are of its class. -/
theorem eachClassIssuesOnlyItsEvents : Obligations.EachClassIssuesOnlyItsEvents := by
  intro i s t h
  obtain ⟨e, hacts, rfl⟩ := exec_eq_next_iff.1 h
  exact ⟨e.events, rfl, hacts.mayIssue⟩

/-! ## The echo (41_dispatch.md R91) -/

/-- Under distinct codes the status query, with bit 7 set or clear, is the opcode whose masked value is its code's. -/
theorem maskOpcode_eq_qstat_iff {cfg : Config} (hcodes : cfg.CodesOk) (op : Opcode) :
    maskOpcode op = formatC false cfg.opcQstat ↔
      decodeOpcode cfg op = .qstat false ∨ decodeOpcode cfg op = .qstat true := by
  constructor
  · intro hm
    obtain ⟨hsel, hcode, -, -⟩ := fields_maskOpcode op
    rw [hm, selField_formatC] at hsel
    rw [hm, codeField_formatC] at hcode
    have hq : decodeOpcode cfg op = .qstat (wlField op) := by
      rw [← formatC_fields op hsel.symm, ← hcode, wlField_formatC]
      exact decodeOpcode_encodeOpcode (i := .qstat (wlField op)) hcodes rfl
    rw [hq]
    cases wlField op <;> simp
  · have hop := encodeOpcode_decodeOpcode cfg op
    rintro (hq | hq) <;> rw [hq] at hop <;> rw [← hop, encodeOpcode, maskOpcode_formatC]

/-- Settles O16: step 1's echo is the only one, since no class has an echo of its own. -/
theorem echoComesFirstAndOnce : Obligations.EchoComesFirstAndOnce := by
  intro s t op hcodes h
  obtain ⟨es, htrace, hclass⟩ := eachClassIssuesOnlyItsEvents _ s t h
  refine ⟨es, ?_, fun shown hmem => ?_⟩
  · rw [htrace, encodeOpcode_decodeOpcode, echoEvents]
    simp [maskOpcode_eq_qstat_iff hcodes]
  · have := hclass _ hmem
    rw [mayIssue_echo] at this
    cases this

/-! ## Input, and where a dispatch ends (41_dispatch.md R96) -/

/-- An effect does not depend on the pending bytes. -/
theorem Acts.putRx {s : State} {i : Instr} {e : Effect} (h : Acts s i e) (pending : List Byte) :
    Acts (s.putRx pending) i e := by
  cases h <;> constructor <;> assumption

/-- A dispatch ends at the top of the loop or, for INIT and a check-24V as built, inside INIT's loop with its opcode. -/
theorem Acts.control {s : State} {i : Instr} {e : Effect} (h : Acts s i e) :
    e.control = .polling ∨ e.control = .initPolling (encodeOpcode s.cfg i) ∧
      (i = .init i.wlBit ∨ s.cfg.chk24vFallthrough = true ∧ ∃ slot, i.check24V? = some slot) := by
  cases h with
  | checkAsBuilt hi hb => exact (Effect.pollInit_end _ _ _).imp (·.1) fun hc => ⟨hc.1, .inr ⟨hb, _, hi⟩⟩
  | init wl => exact (Effect.pollInit_end _ _ _).imp (·.1) fun hc => ⟨hc.1, .inl rfl⟩
  | _ => exact .inl rfl

/-- The three check-24V instructions. -/
theorem eq_of_check24V? {i : Instr} {slot : Nat} (h : i.check24V? = some slot) :
    i = .chk24v1 i.wlBit ∨ i = .chk24v2 i.wlBit ∨ i = .chk24v3 i.wlBit := by
  cases i <;> cases h <;> simp [Instr.wlBit]

/-- Settles O39: no rule of the relation reads RX, and each names its end. -/
theorem dispatchReadsNoInputAndEnds : Obligations.DispatchReadsNoInputAndEnds := by
  intro i s t h
  obtain ⟨e, hacts, rfl⟩ := exec_eq_next_iff.1 h
  refine ⟨rfl, rfl, rfl, fun pending => (hacts.putRx pending).exec_eq, hacts.control.imp_right fun ⟨hc, hi⟩ => ⟨hc, ?_⟩⟩
  exact hi.imp_right fun ⟨hb, _, hslot⟩ => ⟨hb, eq_of_check24V? hslot⟩

/-! ## Bit 7 of an opcode (30_encoding.md R60) -/

/-- Inverting bit 7 of an opcode other than the light patterns inverts the `wl` of its instruction and keeps the rest.
-/
theorem decodeOpcode_xor (cfg : Config) {op : Opcode} (hon : op ≠ 0xFF) (hoff : op ≠ 0x7F) :
    decodeOpcode cfg (op ^^^ 0x80) = (decodeOpcode cfg op).withWl !wlField op := by
  rcases opcode_cases op with h | h | ⟨wl, code, rfl⟩ | ⟨wl, bus, idx, hne, rfl⟩
  · exact absurd h hon
  · exact absurd h hoff
  · have hxor : formatC wl code ^^^ 0x80 = formatC (!wl) code := by
      revert wl code; decide
    rw [hxor, decodeOpcode_formatC, decodeOpcode_formatC, wlField_formatC, decodeConfig_withWl]
  · have hxor : formatS wl bus idx ^^^ 0x80 = formatS (!wl) bus idx := by
      revert wl bus idx; decide
    rw [hxor, decodeOpcode_formatS cfg _ _ _ hne, decodeOpcode_formatS cfg _ _ _ hne, wlField_formatS,
      decodeSelect_withWl]

/-- An effect as another raw opcode shows it: in the unrecognized warning and in flight inside INIT's loop. -/
def Effect.reshown (shown : Opcode) (e : Effect) : Effect :=
  { e with
    events := e.events.map (reshow shown)
    control := if e.control = .polling then .polling else .initPolling shown }

/-- Queries show no opcode. -/
theorem map_reshow_checkEvents (shown : Opcode) (slots : List Nat) (scripted : List CheckStatus) (draws : Nat) :
    (checkEvents slots scripted draws).map (reshow shown) = checkEvents slots scripted draws := by
  induction slots generalizing scripted draws with
  | nil => rfl
  | cons slot slots ih => exact congrArg (_ :: ·) (ih _ _)

/-- A round of INIT's loop shows the opcode in flight only. -/
theorem Effect.pollInit_reshown (cfg : Config) (op shown : Opcode) {e : Effect}
    (h : e.events.map (reshow shown) = e.events) :
    (e.pollInit cfg op).reshown shown = e.pollInit cfg shown := by
  cases hok : e.hal.init.head?.getD (Config.freeHalInit e.draws) with
  | true =>
    rw [pollInit_of_true cfg op hok, pollInit_of_true cfg shown hok]
    simp [reshown, h, reshow]
  | false =>
    rw [pollInit_of_false cfg op hok, pollInit_of_false cfg shown hok]
    simp [reshown, h, reshow]

/-- Of an instruction other than the light ones, the effect with another bit 7 is the same effect with the other opcode
shown. -/
theorem Acts.withWl {s : State} {i : Instr} {e : Effect} (h : Acts s i e) (hl : i.light? = none) (wl : Bool) :
    Acts s (i.withWl wl) (e.reshown (encodeOpcode s.cfg (i.withWl wl))) := by
  cases h with
  | light hi => cases hl.symm.trans hi
  | sleep _ => exact .sleep wl
  | techo _ => exact .techo wl
  | fwver _ ha => exact .fwver wl ha
  | fwverInactive _ ha => exact .fwverInactive wl ha
  | baseact _ => exact .baseact wl
  | prmod _ ha => exact .prmod wl ha
  | prmodInactive _ ha => exact .prmodInactive wl ha
  | check hi hb => exact .check ((check24V?_withWl i wl).trans hi) hb
  | checkAsBuilt hi hb =>
    rw [Effect.pollInit_reshown _ _ _ (map_reshow_checkEvents ..)]
    exact .checkAsBuilt ((check24V?_withWl i wl).trans hi) hb
  | init _ =>
    rw [Effect.pollInit_reshown _ _ _ rfl]
    exact .init wl
  | disable _ => exact .disable wl
  | qstat _ => exact .qstat wl
  | select hi hw => exact .select ((selection?_withWl i wl).trans hi) hw
  | unwired hi hw => exact .unwired ((selection?_withWl i wl).trans hi) hw
  | unrec _ code => exact .unrec wl code

/-- Inverting bit 7 changes of the echo the opcode it shows only (41_dispatch.md R91; D15). -/
theorem map_reshow_echoEvents (s : State) (op : Opcode) :
    (echoEvents s op).map (reshow (op ^^^ 0x80)) = echoEvents s (op ^^^ 0x80) := by
  have hm : maskOpcode (op ^^^ 0x80) = maskOpcode op := by
    revert op; decide
  unfold echoEvents
  rw [hm]
  split <;> rfl

/-- Settles O37: both opcodes decode to one instruction but for its bit 7, and the effects differ in the opcode they
show. -/
theorem warningBitNeverSelectsBehaviour : Obligations.WarningBitNeverSelectsBehaviour := by
  intro s op hon hoff
  have hdec := decodeOpcode_xor s.cfg hon hoff
  have hop := encodeOpcode_decodeOpcode s.cfg op
  have hop' := encodeOpcode_decodeOpcode s.cfg (op ^^^ 0x80)
  have hl : (decodeOpcode s.cfg op).light? = none := by
    rw [light?_decodeOpcode, if_neg hon, if_neg hoff]
  rw [hdec] at hop' ⊢
  refine ⟨fun r => ?_, fun t h => ⟨by rw [exec_wlOf h, hl]; rfl, ?_⟩⟩
  · rw [exec_eq_refused_iff, exec_eq_refused_iff, readStatus?_withWl]
  · obtain ⟨e, hacts, rfl⟩ := exec_eq_next_iff.1 h
    have hacts' := hacts.withWl hl !wlField op
    have hcontrol := hacts.control
    rw [hop'] at hacts'
    rw [hop] at hcontrol ⊢
    refine ⟨_, echoEvents s op ++ e.events, hacts'.exec_eq, rfl, rfl, rfl, rfl, rfl, rfl, rfl, ?_,
      List.append_assoc _ _ _, ?_⟩
    · rcases hcontrol with hc | ⟨hc, -⟩
      · exact .inl ⟨hc, if_pos hc⟩
      · exact .inr ⟨hc, if_neg (by simp [hc])⟩
    · rw [hop', List.map_append, map_reshow_echoEvents, ← List.append_assoc]
      rfl

/-! ## The dispatcher's properties (41_dispatch.md R97) -/

/-- A light instruction keeps bits 6-0 of STATUS. -/
theorem lastOf_of_light {i : Instr} {level : Bool} (h : i.light? = some level) {s t : State} (ht : exec i s = .next t) :
    lastOf t.status = lastOf s.status := by
  rw [exec_light_status h ht, lastOf_setWl]

/-- Settles O44: (a) from what a dispatch writes to STATUS, (b) to (e) from the effects of their instructions. -/
theorem dispatcherProperties : Obligations.DispatcherProperties := by
  refine ⟨fun s t op h => ⟨fun hop => ?_, fun hon hoff => ?_⟩, fun s op hsel hon hoff hw => ?_,
    fun s t t' wl wl' h h' => ?_, fun s t t' wl wl' h h' => ?_, fun s op hsel hn => ?_⟩
  · rcases hop with rfl | rfl
    · exact lastOf_of_light (light?_decodeOpcode s.cfg 0xFF) h
    · exact lastOf_of_light (light?_decodeOpcode s.cfg 0x7F) h
  · rw [exec_wlOf h, light?_decodeOpcode, if_neg hon, if_neg hoff]
    rfl
  · obtain ⟨⟨chain, bussel⟩, hchannels⟩ := Option.isSome_iff_exists.1 hw
    have hexec := (Acts.select (selection?_decodeOpcode s.cfg hsel hon hoff) hchannels).exec_eq
    rw [encodeOpcode_decodeOpcode, ← recordLast_formatS_masked (wlField op), formatS_fields op hsel] at hexec
    exact ⟨_, _, chain, bussel, hchannels, hexec, rfl, rfl, lastOf_recordLast op s.status⟩
  · cases (techoInvertsAndReports s wl).symm.trans h
    cases (techoInvertsAndReports _ wl').symm.trans h'
    exact Bool.not_not _
  · cases (sleepDeassertsAllAndRecords s wl).symm.trans h
    cases (qstatReportsStatusUnechoed _ wl').symm.trans h'
    refine ⟨_, rfl, ?_, ?_⟩
    · rw [← recordLast_formatC false, lastOf_recordLast]
    · rw [← recordLast_formatC false, wlOf_recordLast]
  · obtain ⟨hunrec, -⟩ := unrecognizedOpcodeIsReportedOnly
    refine ⟨_, _, hunrec s op hsel hn, rfl, rfl, List.append_assoc _ _ _, fun e he => ?_⟩
    rcases List.mem_append.1 he with he | he
    · rcases echoEvents_cases s op with hecho | hecho <;> rw [hecho] at he
      · cases he
      · exact ⟨_, List.mem_singleton.1 he⟩
    · exact ⟨_, List.mem_singleton.1 he⟩

end Sys2Proof.Machine
end

section
/-! PROOFS. What every step keeps: the configuration and the trace (00_scope.md R5; 20_memory.md R38), STATUS and ECHO
(10_state.md R27), the pin image and the lamp (45_output_sequencer.md R151 to R157), the control path and the buffers
(40_decoder.md R71; 70_reset_and_hazards.md R194), and what a step is refused for (60_exceptions.md R176). -/

namespace Sys2Proof.Machine

/-! ## The three kinds of step -/

/-- The state a fetched opcode is dispatched in: its line gone from RX, at the top of the loop (40_decoder.md R72). -/
def State.fetched (s : State) (rest : List Byte) : State :=
  { s with rx := rest, control := .polling, schedule := s.schedule.tail }

/-- A step that answers a next state dispatches the opcode it fetches, makes a round of INIT's loop, or is the
decoder's, the host's or the timeout's. -/
theorem step_next_kinds {s t : State} (h : step s = .next t) :
    (∃ op rest, fetchedOpcode s = some op ∧ exec (decodeOpcode s.cfg op) (s.fetched rest) = .next t) ∨
      (∃ op, s.CoreActs ∧ s.control = .initPolling op ∧ t = initRound op (s.putSchedule s.schedule.tail)) ∨
      DecoderMove step s t := by
  rcases step_next_cases h with hdispatch | ⟨op, -, ha, hc, ht⟩ | ⟨hf, -⟩
  · exact .inl hdispatch
  · exact .inr (.inl ⟨op, ha, hc, ht⟩)
  by_cases hi : ∃ op, s.control = .initPolling op
  · obtain ⟨op, hc⟩ := hi
    rcases step_cases s h with ⟨bytes, moves, hs, ht⟩ | ⟨moves, hs, ht⟩ | ⟨-, hw, -⟩ | ⟨ha, -, hm⟩
    · exact .inr (.inr ((hostSend_decoderMove ht.symm).of_putSchedule fun v e => step_hostSends hs))
    · cases ht
      exact .inr (.inr ((timeoutMove_decoderMove _).of_putSchedule fun v e => step_timeout hs))
    · simp [waiting, hc] at hw
    · cases (coreMove_initPolling (s := s.putSchedule s.schedule.tail) hc).symm.trans hm
      exact .inr (.inl ⟨op, ha, hc, rfl⟩)
  · exact .inr (.inr (step_decoderMove h hf fun op hc => hi ⟨op, hc⟩).1)

/-- A decoder move keeps the configuration. -/
theorem DecoderMove.cfg_eq {move : State → Result} {s t : State} (h : DecoderMove move s t) : t.cfg = s.cfg := by
  rw [h.frame]

/-- A decoder move keeps STATUS. -/
theorem DecoderMove.status_eq {move : State → Result} {s t : State} (h : DecoderMove move s t) :
    t.status = s.status := by
  rw [h.frame]

/-- A decoder move keeps ECHO. -/
theorem DecoderMove.echo_eq {move : State → Result} {s t : State} (h : DecoderMove move s t) : t.echo = s.echo := by
  rw [h.frame]

/-- A decoder move appends messages to the trace. -/
theorem DecoderMove.messages {move : State → Result} {s t : State} (h : DecoderMove move s t) :
    ∃ es, t.trace = s.trace ++ es ∧ ∀ e ∈ es, ∃ msg, e = .tx msg := by
  rcases h.message with ht | ht | ht
  · exact ⟨[], by simp [ht], by simp⟩
  · exact ⟨_, ht, by simp⟩
  · exact ⟨_, ht, by simp⟩

/-- A round of INIT's loop appends its call to the trace and keeps the configuration, ECHO and bit 7 of STATUS. -/
theorem initRound_frame (op : Opcode) (s : State) :
    (initRound op s).cfg = s.cfg ∧ (initRound op s).echo = s.echo ∧ wlOf (initRound op s).status = wlOf s.status ∧
      ∃ ok, (initRound op s).trace = s.trace ++ [.halInit ok] := by
  rcases initRound_cases s op with ⟨-, he⟩ | ⟨-, he⟩ <;> rw [he]
  · exact ⟨rfl, rfl, wlOf_recordLast _ _, true, rfl⟩
  · exact ⟨rfl, rfl, rfl, false, rfl⟩

/-- Settles O41: a dispatch appends its echo and events, a round its call, a decoder move its messages. -/
theorem traceOnlyGrowsAndConfigurationStays : Obligations.TraceOnlyGrowsAndConfigurationStays := by
  intro s t h
  rcases step_next_kinds h with ⟨op, rest, -, he⟩ | ⟨op, -, -, rfl⟩ | hd
  · obtain ⟨e, -, rfl⟩ := exec_eq_next_iff.1 he
    exact ⟨rfl, _, List.append_assoc _ _ _⟩
  · obtain ⟨hcfg, -, -, ok, htrace⟩ := initRound_frame op (s.putSchedule s.schedule.tail)
    exact ⟨hcfg, _, htrace⟩
  · obtain ⟨es, htrace, -⟩ := hd.messages
    exact ⟨hd.cfg_eq, es, htrace⟩

/-! ## STATUS and ECHO (10_state.md R27) -/

/-- A check-24V has an opcode of format C, with one of the three check codes (30_encoding.md R54, R57). -/
theorem encodeOpcode_check24V {cfg : Config} {i : Instr} {slot : Nat} (hi : i.check24V? = some slot) :
    selField (encodeOpcode cfg i) = false ∧ (codeField (encodeOpcode cfg i) = cfg.opcChk24v1 ∨
      codeField (encodeOpcode cfg i) = cfg.opcChk24v2 ∨ codeField (encodeOpcode cfg i) = cfg.opcChk24v3) := by
  cases i <;> cases hi <;> simp only [encodeOpcode, selField_formatC, codeField_formatC, true_or, or_true, true_and]

/-- A selection that an opcode decodes to names the opcode's fields, and the opcode is no light pattern. -/
theorem fields_of_selection? {s : State} {op : Opcode} {bus : BusField} {idx : IdxField}
    (h : (decodeOpcode s.cfg op).selection? = some (bus, idx)) :
    selField op = true ∧ op ≠ 0xFF ∧ op ≠ 0x7F ∧ busField op = bus ∧ idxField op = idx := by
  have hop : op = formatS _ bus idx := (encodeOpcode_decodeOpcode s.cfg op).symm.trans (exec_selection h s).2
  refine ⟨?_, ?_, ?_, ?_, ?_⟩
  · rw [hop, selField_formatS]
  · rintro rfl; cases h
  · rintro rfl; cases h
  · rw [hop, busField_formatS]
  · rw [hop, idxField_formatS]

/-- Only the instructions that may record change bits 6-0 of STATUS (10_state.md R13, R27 (b)). -/
theorem Acts.mayRecord {s : State} {op : Opcode} {e : Effect} (h : Acts s (decodeOpcode s.cfg op) e)
    (hne : lastOf e.status ≠ lastOf s.status) : mayRecord s.cfg op := by
  have hop := encodeOpcode_decodeOpcode s.cfg op
  have formatC {wl : Bool} {code : Code} (h : formatC wl code = op)
      (hcode : code = s.cfg.opcSleep ∨ code = s.cfg.opcInit ∨ code = s.cfg.opcDisable) :
      Machine.mayRecord s.cfg op := by
    subst h
    refine Or.inl ⟨selField_formatC wl code, ?_⟩
    rw [codeField_formatC]
    exact hcode.imp_right (Or.imp_right .inl)
  have selection {bus : BusField} {idx : IdxField} (hi : (decodeOpcode s.cfg op).selection? = some (bus, idx))
      (hw : wired s.cfg bus idx = true ∨ s.cfg.unwiredUpdatesStatus = true) : Machine.mayRecord s.cfg op := by
    obtain ⟨hsel, hon, hoff, rfl, rfl⟩ := fields_of_selection? hi
    exact Or.inr ⟨hsel, hon, hoff, hw⟩
  generalize hdec : decodeOpcode s.cfg op = i at h hop selection
  cases h with
  | light hi => exact absurd (lastOf_setWl _ _) hne
  | sleep wl => exact formatC hop (.inl rfl)
  | init wl => exact formatC hop (.inr (.inl rfl))
  | disable wl => exact formatC hop (.inr (.inr rfl))
  | checkAsBuilt hi hb =>
    obtain ⟨hsel, hcode⟩ := encodeOpcode_check24V (cfg := s.cfg) hi
    rw [hop] at hsel hcode
    exact Or.inl ⟨hsel, .inr (.inr (.inr ⟨hb, hcode⟩))⟩
  | select hi hw => exact selection hi (.inl (by rw [wired, hw]; rfl))
  | unwired hi hw =>
    refine selection hi (.inr ?_)
    by_contra hu
    exact hne (by simp [hu])
  | _ => exact absurd rfl hne

/-- Only toggle-echo changes ECHO (10_state.md R27 (c)). -/
theorem Acts.eq_techo {s : State} {i : Instr} {e : Effect} (h : Acts s i e) (hne : e.echo ≠ s.echo) :
    ∃ wl, i = .techo wl := by
  cases h with
  | techo wl => exact ⟨wl, rfl⟩
  | _ => exact absurd rfl hne

/-- A fetched opcode is the opcode of the cycle. -/
theorem cycleOpcode_of_fetchedOpcode {s : State} {op : Opcode} (h : fetchedOpcode s = some op) :
    cycleOpcode s = some op := by
  unfold cycleOpcode
  cases hc : s.control with
  | polling | reading line => exact h
  | draining | initPolling op' =>
    rw [fetchedOpcode_of_no_read (by simp [hc]) (by simp [hc])] at h
    cases h

/-- Inside INIT's loop the opcode in flight is the opcode of the cycle (43_config.md R113). -/
theorem cycleOpcode_of_initPolling {s : State} {op : Opcode} (ha : s.CoreActs) (hc : s.control = .initPolling op) :
    cycleOpcode s = some op := by
  simp only [cycleOpcode, hc, if_pos ha]

/-- An opcode that may be in flight inside INIT's loop may record (43_config.md R113, R119). -/
theorem State.ControlOk.mayRecord {s : State} {op : Opcode} (h : s.ControlOk) (hc : s.control = .initPolling op) :
    mayRecord s.cfg op := by
  simp only [State.ControlOk, hc] at h
  obtain ⟨hsel, hcode⟩ := h
  exact Or.inl ⟨hsel, hcode.elim (fun hi => .inr (.inl hi)) fun hchk => .inr (.inr (.inr hchk))⟩

/-- Settles O36: by the three kinds of step. -/
theorem statusAndEchoChangeOnlyInTheirCycles : Obligations.StatusAndEchoChangeOnlyInTheirCycles := by
  intro s t hok h
  rcases step_next_kinds h with ⟨op, rest, hf, he⟩ | ⟨op, ha, hc, rfl⟩ | hd
  · have hcycle := cycleOpcode_of_fetchedOpcode hf
    have hwl := exec_wlOf he
    obtain ⟨e, hacts, rfl⟩ := exec_eq_next_iff.1 he
    refine ⟨fun hne => ?_, fun hne => ⟨op, hcycle, hacts.mayRecord hne⟩, fun hne => ⟨op, hcycle, ?_⟩,
      fun hnone => by simp [hcycle] at hnone⟩
    · rw [hcycle, Option.some.injEq, Option.some.injEq]
      by_contra hno
      obtain ⟨hon, hoff⟩ := not_or.1 hno
      rw [light?_decodeOpcode, if_neg hon, if_neg hoff] at hwl
      exact hne hwl
    · obtain ⟨wl, hi⟩ := hacts.eq_techo hne
      have hop := encodeOpcode_decodeOpcode s.cfg op
      rw [hi] at hop
      exact hop ▸ ⟨selField_formatC wl _, codeField_formatC wl _⟩
  · have hcycle := cycleOpcode_of_initPolling ha hc
    obtain ⟨-, hecho, hwl, -⟩ := initRound_frame op (s.putSchedule s.schedule.tail)
    exact ⟨fun hne => absurd hwl hne, fun _ => ⟨op, hcycle, hok.mayRecord hc⟩, fun hne => absurd hecho hne,
      fun hnone => by simp [hcycle] at hnone⟩
  · have hst := hd.status_eq
    have hecho := hd.echo_eq
    exact ⟨fun hne => absurd (congrArg wlOf hst) hne, fun hne => absurd (congrArg lastOf hst) hne,
      fun hne => absurd hecho hne, fun _ => ⟨hst, hecho⟩⟩

/-! ## The pin image (45_output_sequencer.md R151 to R157) -/

/-- Settles O45: one event appended is one step of the fold. -/
theorem pinImageFollowsTheWrites : Obligations.PinImageFollowsTheWrites := by
  intro tr slot ch
  have hstep (e : Event) : pin (tr ++ [e]) slot ch = pinStep slot ch (pin tr slot ch) e := pin_append tr [e] slot ch
  simp only [hstep]
  refine ⟨rfl, fun level => by simp [pinStep], fun level hch => by simp [pinStep], fun level slot' c hother => ?_,
    fun e hno => ?_⟩
  · rw [pinStep, if_neg]
    rintro ⟨hs, hc⟩
    rcases hother with hne | ⟨h0, hne⟩
    · exact hne hs
    · exact hc.elim h0 hne
  · cases e with
    | dwrite level slot' c => exact absurd rfl (hno level slot' c)
    | _ => rfl

/-- Events that leave a commanded level as it is, all of them, leave it. -/
theorem foldl_eq_of_keeps {f : Option Bool → Event → Option Bool} {es : List Event} (h : ∀ e ∈ es, ∀ old, f old e = old)
    (old : Option Bool) : es.foldl f old = old := by
  induction es generalizing old with
  | nil => rfl
  | cons e es ih =>
    rw [List.foldl_cons, h e List.mem_cons_self, ih fun e he => h e (List.mem_cons_of_mem _ he)]

/-- Events without a discrete write leave the pin image. -/
theorem pin_append_of_no_dwrite {es : List Event} (h : ∀ level slot c, Event.dwrite level slot c ∉ es) (tr : List Event)
    (slot ch : Nat) : pin (tr ++ es) slot ch = pin tr slot ch := by
  rw [pin_append]
  refine foldl_eq_of_keeps (fun e he old => ?_) _
  cases e with
  | dwrite level slot' c => exact absurd he (h level slot' c)
  | _ => rfl

/-- Events without a lamp command leave the lamp. -/
theorem wlcmd_append_of_no_warnLight {es : List Event} (h : ∀ level, Event.warnLight level ∉ es) (tr : List Event) :
    wlcmd (tr ++ es) = wlcmd tr := by
  rw [wlcmd_append]
  refine foldl_eq_of_keeps (fun e he old => ?_) _
  cases e with
  | warnLight level => exact absurd he (h level)
  | _ => rfl

/-- The channels of a wired selection under allowed channels: at least 1, the second one of the two bus-select
channels and the first none of them (00_scope.md R5). -/
theorem selectionChannels_ok {cfg : Config} (h : cfg.ChannelsOk) {bus : BusField} {idx : IdxField} {chain bussel : Nat}
    (hw : selectionChannels cfg bus idx = some (chain, bussel)) :
    1 ≤ chain ∧ 1 ≤ bussel ∧ chain ≠ cfg.chBusselEms ∧ chain ≠ cfg.chBusselDfs ∧
      (bussel = cfg.chBusselEms ∨ bussel = cfg.chBusselDfs) := by
  obtain ⟨hwires, hems, hdfs, -⟩ := h
  unfold selectionChannels at hw
  split at hw
  · cases hw
  next b _ =>
  split at hw
  · cases hw
  next chain' hchain =>
  cases hw
  obtain ⟨w, hfind, rfl⟩ := Option.map_eq_some_iff.1 hchain
  obtain ⟨hw1, hne⟩ := hwires w (List.mem_of_find?_eq_some hfind)
  cases b with
  | ems => exact ⟨hw1, hems, hne.1, hne.2, .inl rfl⟩
  | dfs => exact ⟨hw1, hdfs, hne.1, hne.2, .inr rfl⟩

/-- Settles O46: the last write to a channel, among SLEEP's one or a selection's three, is what its pin shows. -/
theorem pinsAfterSleepAndSelection : Obligations.PinsAfterSleepAndSelection := by
  refine ⟨fun s t wl h ch hch => ?_, fun s t i bus idx chain bussel hok hi hw h ch hch => ?_⟩
  · cases (sleepDeassertsAllAndRecords s wl).symm.trans h
    simp [pin_append, pinStep]
  · obtain ⟨hchain, hbussel, -⟩ := selectionChannels_ok hok hw
    have hc0 : chain ≠ 0 := by omega
    have hb0 : bussel ≠ 0 := by omega
    cases (wiredSelectionWritesThreeAndRecords s i bus idx chain bussel hi hw).symm.trans h
    simp only [pin_append, List.foldl_cons, List.foldl_nil, pinStep, true_and, true_or, if_true, hc0, hb0, false_or,
      eq_comm (a := ch)]
    split_ifs with hb hc
    · simp [hb]
    · simp [hc]
    · simp [hb, hc]

/-- Where the configuration stays and the pins do, so does what the pin image may be. -/
theorem State.PinsOk.of_eq {s t : State} (h : s.PinsOk) (hcfg : t.cfg = s.cfg)
    (hpin : ∀ slot ch, pin t.trace slot ch = pin s.trace slot ch) : t.PinsOk := by
  simpa only [State.PinsOk, hcfg, hpin] using h

/-- The echo and the events of a class without discrete writes leave the pins. -/
theorem exec_pin {s t : State} {i : Instr} (h : exec i s = .next t)
    (hno : ∀ level slot c, mayIssue s.cfg i (.dwrite level slot c) = false) (slot ch : Nat) :
    pin t.trace slot ch = pin s.trace slot ch := by
  obtain ⟨es, htrace, hclass⟩ := eachClassIssuesOnlyItsEvents i s t h
  rw [htrace, pin_append_of_no_dwrite, pin_append, pinStep_echoEvents]
  exact fun level slot c he => Bool.false_ne_true ((hno level slot c).symm.trans (hclass _ he))

/-- A dispatch leaves the pins, or SLEEP or a wired selection sets them. -/
theorem exec_pinsOk {s t : State} {i : Instr} (hok : s.cfg.ChannelsOk) (hpins : s.PinsOk) (h : exec i s = .next t) :
    t.PinsOk := by
  obtain ⟨-, hcfg, -⟩ := dispatchReadsNoInputAndEnds i s t h
  obtain ⟨hsleep, hselect⟩ := pinsAfterSleepAndSelection
  by_cases hw : ∃ level slot c, mayIssue s.cfg i (.dwrite level slot c) = true
  · obtain ⟨level, slot, c, hw⟩ := hw
    rcases of_mayIssue_dwrite hw with ⟨wl, rfl⟩ | ⟨bus, idx, chain, bussel, hi, hchannels⟩
    · exact .inr (.inl (hcfg ▸ hsleep s t wl h))
    · exact .inr (.inr ⟨bus, idx, chain, bussel, hcfg ▸ hchannels,
        hcfg ▸ hselect s t i bus idx chain bussel hok hi hchannels h⟩)
  · refine hpins.of_eq hcfg (exec_pin h fun level slot c => ?_)
    exact Bool.eq_false_iff.2 fun hw' => hw ⟨level, slot, c, hw'⟩

/-- Settles O47: by the three kinds of step. -/
theorem stepKeepsThePinImage : Obligations.StepKeepsThePinImage := by
  intro s t hok hpins h
  obtain ⟨hcfg, -⟩ := traceOnlyGrowsAndConfigurationStays s t h
  refine ⟨hcfg ▸ hok, ?_⟩
  rcases step_next_kinds h with ⟨op, rest, -, he⟩ | ⟨op, -, -, rfl⟩ | hd
  · exact exec_pinsOk (s := s.fetched rest) hok hpins he
  · obtain ⟨-, -, -, ok, htrace⟩ := initRound_frame op (s.putSchedule s.schedule.tail)
    refine hpins.of_eq hcfg fun slot ch => ?_
    rw [htrace, pin_append_of_no_dwrite (by simp)]
    rfl
  · obtain ⟨es, htrace, hmsg⟩ := hd.messages
    refine hpins.of_eq hcfg fun slot ch => ?_
    rw [htrace, pin_append_of_no_dwrite fun level slot c he => by simpa using hmsg _ he]

/-- Settles O48: the channels on are one chain channel and one bus-select channel. -/
theorem atMostOneBusAndOneChainOn : Obligations.AtMostOneBusAndOneChainOn := by
  intro s hok hpins
  have ⟨_, hems, hdfs, hne⟩ := hok
  rcases hpins with hpins | hpins | ⟨bus, idx, chain, bussel, hw, hpins⟩
  · refine ⟨fun ⟨he, _⟩ => by simp [hpins _ hems] at he, fun a b ha _ hon => by simp [hpins a ha] at hon⟩
  · refine ⟨fun ⟨he, _⟩ => by simp [hpins _ hems] at he, fun a b ha _ hon => by simp [hpins a ha] at hon⟩
  · obtain ⟨-, -, hce, hcd, hb⟩ := selectionChannels_ok hok hw
    have on {ch : Nat} (hch : 1 ≤ ch) (h : pin s.trace s.cfg.outSlot ch = some true) : ch = chain ∨ ch = bussel := by
      simpa [hpins ch hch] using h
    refine ⟨fun ⟨he, hd⟩ => ?_, fun a b ha hb' hona honb hae had hbe hbd => ?_⟩
    · have h1 := on hems he
      have h2 := on hdfs hd
      omega
    · have h1 := on ha hona
      have h2 := on hb' honb
      omega

/-! ## The lamp (45_output_sequencer.md R154) -/

/-- A dispatch commands the lamp for the light instructions only, to their level. -/
theorem exec_wlcmd {s t : State} {i : Instr} (h : exec i s = .next t) :
    wlcmd t.trace = i.light?.or (wlcmd s.trace) := by
  cases hl : i.light? with
  | some level =>
    cases (exec_light hl s).symm.trans h
    simp [wlcmd_append, wlcmdStep]
  | none =>
    obtain ⟨es, htrace, hclass⟩ := eachClassIssuesOnlyItsEvents i s t h
    rw [htrace, wlcmd_append_of_no_warnLight, wlcmd_append, wlcmdStep_echoEvents, Option.none_or]
    intro level he
    cases hl.symm.trans (mayIssue_warnLight_iff.1 (hclass _ he))

/-- Settles O49: a dispatch moves the lamp and bit 7 of STATUS together, and no other step moves either. -/
theorem stepKeepsLampAndStatusTogether : Obligations.StepKeepsLampAndStatusTogether := by
  intro s t hlamp h
  rcases step_next_kinds h with ⟨op, rest, -, he⟩ | ⟨op, -, -, rfl⟩ | hd
  · rw [State.LampOk, exec_wlcmd he, exec_wlOf he]
    cases (decodeOpcode s.cfg op).light? with
    | some level => exact .inr rfl
    | none => exact hlamp
  · obtain ⟨-, -, hwl, ok, htrace⟩ := initRound_frame op (s.putSchedule s.schedule.tail)
    rw [State.LampOk, htrace, wlcmd_append_of_no_warnLight (by simp), hwl]
    exact hlamp
  · obtain ⟨es, htrace, hmsg⟩ := hd.messages
    rw [State.LampOk, htrace, wlcmd_append_of_no_warnLight fun level he => by simpa using hmsg _ he, hd.status_eq]
    exact hlamp

/-! ## The control path and the buffers (40_decoder.md R71; 70_reset_and_hazards.md R194) -/

/-- Bytes beyond RX_CAP are beyond a finite one (70_reset_and_hazards.md R194). -/
theorem overCap_eq_true_iff {cfg : Config} {n : Nat} :
    overCap cfg n = true ↔ ∃ cap, cfg.rxCap = some cap ∧ cap < n := by
  unfold overCap
  cases cfg.rxCap <;> simp

/-- Fewer bytes stay within RX_CAP. -/
theorem overCap_of_le {cfg : Config} {m n : Nat} (hle : m ≤ n) (h : overCap cfg n = false) : overCap cfg m = false := by
  rw [Bool.eq_false_iff, Ne, overCap_eq_true_iff] at h ⊢
  exact fun ⟨cap, hcap, hlt⟩ => h ⟨cap, hcap, hlt.trans_le hle⟩

/-- The top of the loop is legal. -/
theorem State.ControlOk.of_polling {s : State} (h : s.control = .polling) : s.ControlOk := by
  simp only [State.ControlOk, h]

/-- A drain is legal. -/
theorem State.ControlOk.of_draining {s : State} (h : s.control = .draining) : s.ControlOk := by
  simp only [State.ControlOk, h]

/-- Under one configuration a control path is legal or not for itself. -/
theorem State.ControlOk.of_eq {s t : State} (h : s.ControlOk) (hcfg : t.cfg = s.cfg) (hc : t.control = s.control) :
    t.ControlOk := by
  simpa only [State.ControlOk, hcfg, hc] using h

/-- A dispatch leaves the control path legal: in INIT's loop it is INIT or a check-24V as built (43_config.md R113,
R119). -/
theorem exec_controlOk {s t : State} {i : Instr} (h : exec i s = .next t) : t.ControlOk := by
  obtain ⟨e, hacts, rfl⟩ := exec_eq_next_iff.1 h
  rcases hacts.control with hc | ⟨hc, hi⟩
  · exact .of_polling hc
  · simp only [State.ControlOk, Effect.apply, hc]
    rcases hi with hi | ⟨hb, slot, hslot⟩
    · rw [hi]
      exact ⟨selField_formatC _ _, .inl (codeField_formatC _ _)⟩
    · exact (encodeOpcode_check24V hslot).imp_right fun hcode => .inr ⟨hb, hcode⟩

/-- A round of INIT's loop leaves the control path legal, and RX. -/
theorem initRound_controlOk {s : State} {op : Opcode} (hok : s.ControlOk) (hc : s.control = .initPolling op) :
    (initRound op s).ControlOk ∧ (initRound op s).rx = s.rx := by
  rcases initRound_cases s op with ⟨-, he⟩ | ⟨-, he⟩ <;> rw [he]
  · exact ⟨.of_polling rfl, rfl⟩
  · exact ⟨hok.of_eq rfl hc.symm, rfl⟩

/-- Going on with a read that has not ended leaves the control path legal, and no more bytes in RX (40_decoder.md
R71). -/
theorem goOnReading_controlOk {s t : State} {line : List Byte} (hlen : line.length < nLine) (hlf : asciiLf ∉ line)
    (h : goOnReading line s = .next t) : t.ControlOk ∧ t.rx.length ≤ s.rx.length := by
  have hleft := (left_readLine_suffix line s.rx).length_le
  rcases goOnReading_cases line s h with
    ⟨got, rest, op, hl, -, ht⟩ | ⟨got, rest, hl, -, ht⟩ | ⟨rest, hl, ht⟩ | ⟨got, hl, ht⟩ <;> rw [hl] at hleft
  · obtain ⟨hrx, -⟩ := dispatchReadsNoInputAndEnds _ _ _ ht.symm
    exact ⟨exec_controlOk ht.symm, hrx ▸ hleft⟩
  · cases ht
    exact ⟨.of_polling rfl, hleft⟩
  · cases ht
    exact ⟨.of_draining rfl, hleft⟩
  · cases ht
    refine ⟨?_, hleft⟩
    rcases readLine_cases line s.rx hlen hlf with ⟨_, _, -, -, -, he⟩ | ⟨_, _, -, -, -, he⟩ | ⟨hlf', hlen', he⟩ <;>
      cases he.symm.trans hl
    exact ⟨by simpa using hlen', by simp [hlf, hlf']⟩

/-- A core move leaves the control path legal, and no more bytes in RX. -/
theorem coreMove_controlOk {s t : State} (hok : s.ControlOk) (h : coreMove s = .next t) :
    t.ControlOk ∧ t.rx.length ≤ s.rx.length := by
  rcases coreMove_cases s h with ⟨-, -, ht⟩ | ⟨line, hc, hg⟩ | ⟨-, ht⟩ | ⟨op, hc, ht⟩
  · cases ht
    exact ⟨hok, le_rfl⟩
  · rcases hc with ⟨-, rfl⟩ | hc
    · exact goOnReading_controlOk (by simp [nLine]) (by simp) hg
    · simp only [State.ControlOk, hc] at hok
      exact goOnReading_controlOk hok.1 hok.2 hg
  · cases ht
    exact ⟨.of_polling rfl, Nat.zero_le _⟩
  · cases ht
    exact (initRound_controlOk hok hc).imp_right fun hrx => (congrArg List.length hrx).le

/-- Settles O50: by who acts. The host alone adds to RX, and not beyond RX_CAP. -/
theorem stepKeepsControlAndBuffers : Obligations.StepKeepsControlAndBuffers := by
  intro s t hwf hok hrx h
  obtain ⟨hcfg, -⟩ := traceOnlyGrowsAndConfigurationStays s t h
  refine ⟨hcfg ▸ hwf, ?_⟩
  rw [State.RxOk, hcfg]
  rcases step_cases s h with ⟨bytes, moves, -, ht⟩ | ⟨moves, -, ht⟩ | ⟨-, -, ht⟩ | ⟨-, -, hm⟩
  · rcases hostSend_cases (s.putSchedule moves) bytes with ⟨hcap, he⟩ | ⟨-, he⟩ <;> cases ht.trans he
    exact ⟨hok, hcap⟩
  · cases ht
    rcases timeoutMove_cases (s.putSchedule moves) with ⟨-, he⟩ | ⟨-, he⟩ <;> rw [he]
    · exact ⟨.of_draining rfl, hrx⟩
    · exact ⟨hok, hrx⟩
  · cases ht
    exact ⟨.of_draining rfl, hrx⟩
  · exact (coreMove_controlOk (s := s.putSchedule s.schedule.tail) hok hm).imp_right fun hle => overCap_of_le hle hrx

/-! ## Refusals (60_exceptions.md R176) -/

/-- A read-status instruction that an opcode decodes to is of format C, with the code of its slot, which exists. -/
theorem fields_of_readStatus? {cfg : Config} {op : Opcode} {slot : Nat}
    (h : (decodeOpcode cfg op).readStatus? = some slot) :
    selField op = false ∧ 1 ≤ slot ∧ slot ≤ cfg.nslotRd ∧ codeField op = cfg.rdstatCode slot := by
  obtain ⟨hop, hwf⟩ := encodeOfDecodeIsTheOpcode cfg op
  generalize decodeOpcode cfg op = i at h hop hwf
  subst hop
  cases i <;> cases h <;> simp only [Instr.wf, Bool.and_eq_true, decide_eq_true_eq] at hwf <;>
    exact ⟨selField_formatC _ _, by omega, by omega, codeField_formatC _ _⟩

/-- A core move is refused for a read-status opcode of the line it reads. -/
theorem coreMove_refused {s : State} {r : Refusal} (h : coreMove s = .refused r) :
    ∃ line op slot, (s.control = .polling ∧ line = [] ∨ s.control = .reading line) ∧ lineOpcode line s.rx = some op ∧
      (decodeOpcode s.cfg op).readStatus? = some slot ∧ r = .readStatusActionNotInSource slot := by
  rcases coreMove_cases s h with ⟨-, -, ht⟩ | ⟨line, hc, hg⟩ | ⟨-, ht⟩ | ⟨op, -, ht⟩
  · cases ht
  · rcases goOnReading_cases line s hg with
      ⟨got, rest, op, hl, hp, ht⟩ | ⟨got, rest, -, -, ht⟩ | ⟨rest, -, ht⟩ | ⟨got, -, ht⟩
    · obtain ⟨slot, hslot, hr⟩ := exec_eq_refused_iff.1 ht.symm
      exact ⟨line, op, slot, hc, by simp only [lineOpcode, hl, hp], hslot, hr⟩
    · cases ht
    · cases ht
    · cases ht
  · cases ht
  · cases ht

/-- Settles O42: the host's move and the dispatch of a read-status opcode are the only ones refused, and no fault
exists. -/
theorem noFaultAndOnlyTwoRefusals : Obligations.NoFaultAndOnlyTwoRefusals := by
  refine ⟨fun _ f => (nomatch f), fun s r h => ?_⟩
  rcases step_cases s h with ⟨bytes, moves, hs, ht⟩ | ⟨moves, -, ht⟩ | ⟨-, -, ht⟩ | ⟨ha, -, hm⟩
  · rcases hostSend_cases (s.putSchedule moves) bytes with ⟨-, he⟩ | ⟨hover, he⟩ <;> cases ht.trans he
    obtain ⟨cap, hcap, hlt⟩ := overCap_eq_true_iff.1 hover
    exact .inl ⟨rfl, bytes, moves, cap, hs, hcap, by simpa using hlt⟩
  · cases ht
  · cases ht
  · obtain ⟨line, op, slot, hc, hline, hslot, hr⟩ := coreMove_refused hm
    obtain ⟨hsel, h1, hn, hcode⟩ := fields_of_readStatus? hslot
    exact .inr ⟨op, (fetchedOpcode_of_read ha hc).trans hline, hsel, slot, hr, h1, hn, hcode⟩

/-! ## Power-up (70_reset_and_hazards.md R180 to R182) -/

/-- Settles O51: nothing is pending, issued or in flight after power-up. -/
theorem powerUpMeetsTheInvariants : Obligations.PowerUpMeetsTheInvariants := by
  refine ⟨fun cfg hwf => ⟨hwf, .of_polling rfl, ?_, .inl fun _ _ => rfl, .inl rfl⟩, by decide, rfl⟩
  rw [State.RxOk, Bool.eq_false_iff, Ne, overCap_eq_true_iff]
  exact fun ⟨cap, _, hlt⟩ => Nat.not_lt_zero cap hlt

/-- Settles O53: the fields of power-up, under the default configuration and under every other. -/
theorem powerUpState : Obligations.PowerUpState :=
  ⟨rfl, rfl, fun _ => ⟨rfl, rfl, rfl, rfl, rfl, fun _ _ => rfl, rfl⟩⟩

end Sys2Proof.Machine
end
